-- ==== Sys2Proof/Word.lean ====
section
/-!
DEFINITION. The sizes the spec counts in: a byte (R7, R9), a 32-bit register value or job word (R7,
R26, R27) and a midstate of 32 bytes (R7, R27).
-/

namespace Sys2Proof

/-- R9: "A *byte* is 8 bits." -/
abbrev Byte := BitVec 8

/-- R7: the width of a register value and of a job word. -/
abbrev Word := BitVec 32

/-- R27, R153(c): a midstate is a 32-byte sequence, index 0 first. -/
abbrev Midstate := Vector Byte 32

end Sys2Proof
end

