-- ==== Sys2Proof/Config.lean ====
section
/-!
DEFINITION. What the spec leaves to the implementation (R8) and to the bus side (R21, D22): the
parameters, each a constant WITHOUT a value, and the free answers of the transport.
-/

namespace Sys2Proof

/-- R8, R114: the four parameters of the CRC-16 that the source leaves open (D2). -/
structure Crc16Params where
  init   : BitVec 16
  refin  : Bool
  refout : Bool
  xorout : BitVec 16
  deriving DecidableEq, Repr, Inhabited

/-- R114: the spec's default variant, CRC-16/CCITT-FALSE. PRESUMED (the spec marks it as general
knowledge): the machine does not assume it, only tests and examples name it (log entry 4). -/
def Crc16Params.ccittFalse : Crc16Params :=
  { init := 0xFFFF, refin := false, refout := false, xorout := 0x0000 }

/-- R57, R208: what the transport's `write` does with one frame. `ok count`: `count` bytes were
accepted. `err e sent`: another error `e`, after `sent` bytes had gone out (the transport does not
say how many). `never sent`: the call does not return (R246). -/
inductive WriteAnswer where
  | ok (count : Nat)
  | err (e : Nat) (sent : Nat)
  | never (sent : Nat)
  deriving DecidableEq, Repr, Inhabited

/-- R58, R208: how the transport's `read` ends. `data count`: at most `count` bytes from the head of
the inbound stream. `timeout`: the timeout-class error (R59). `err e dropped`: another error `e`,
`dropped` bytes delivered with it being discarded. `never taken`: the call does not return (R246);
how many bytes it has taken by then the spec does not say, and the answer carries (log entry 39). -/
inductive ReadResult where
  | data (count : Nat)
  | timeout
  | err (e : Nat) (dropped : Nat)
  | never (taken : Nat)
  deriving DecidableEq, Repr, Inhabited

/-- One answer of the bus side to a `BusRead`: the bytes that arrive while the call waits, and how the
call ends (R21, R35, R58, D22). -/
structure ReadAnswer where
  arriving : List Byte
  result   : ReadResult
  deriving DecidableEq, Repr, Inhabited

/-- R8, R216, R237 to R239, D13: the times outside the block, in milliseconds, each a lower bound that
the host lets pass, but `tRdto`, which is the transport's. The block neither waits nor measures, and
the model has no time (R247): a time is carried in a `delay` line and counts nothing. Nothing reads
`tRdto`, because whether a read times out is the bus side's answer (log entries 23, 46). -/
structure Times where
  /-- `T_RDTO`, the transport's read timeout; no default. -/
  tRdto : Nat
  /-- `T_INACTIVE`, after each broadcast `INACTIVE`; about 30 ms (R237). -/
  tInactive : Nat := 30
  /-- `T_SETADDR`, after each `SETADDR`; no default. -/
  tSetaddr : Nat
  /-- `T_INIT[k]`, after the `k`-th write of the initialisation; no default. -/
  tInit : Nat → Nat
  /-- `T_BAUD`, between the end of `setBaudrate` and the switch of the transport; no default. -/
  tBaud : Nat

namespace Config

/-- R8, D12: `HAS_PREAMBLE`, the reset value of `CFG.PRE`; "no default". Log entry 3. -/
opaque hasPreamble : Bool

/-- R8, R114, D2: the chip family's CRC-16 variant, a parameter. Log entry 4. -/
opaque crc16 : Crc16Params

/-- R21, D22: the bus side's answer to the `n`-th unscripted `BusWrite`, under no law. Log entry 9. -/
opaque busWriteAnswer : Nat → WriteAnswer

/-- R21, D22: the bus side's answer to the `n`-th unscripted `BusRead`, under no law. Log entry 9. -/
opaque busReadAnswer : Nat → ReadAnswer

end Config

end Sys2Proof
end

