-- ==== Sys2Proof/Syntax.lean ====
section
/-!
DEFINITION. The operation set of the block (R3, R95, R97): one constructor per row of
spec/opcode_table.json. And the request port: what the host, or for a response frame the bus side,
lays before the block (log entries 1 and 2).
-/

namespace Sys2Proof

/-- R95, R97: the ten rows of the opcode table, with the operands of the spec's syntax. `b` is the
broadcast flag, the suffix `.B`. -/
inductive Instr where
  /-- R132: `SETADDR[.B] chip, reg`. -/
  | setaddr (b : Bool) (chip reg : Byte)
  /-- R133: `WRITEREG[.B] chip, reg, value`. -/
  | writereg (b : Bool) (chip reg : Byte) (value : Word)
  /-- R134: `READREG[.B] chip, reg`. -/
  | readreg (b : Bool) (chip reg : Byte)
  /-- R135: `INACTIVE[.B] chip, reg`. -/
  | inactive (b : Bool) (chip reg : Byte)
  /-- R150: `SENDJOB jobid, nonce, nbits, ntime, merkle, mid0[, mid1[, mid2[, mid3]]]`. The list may
  have any length, so that the refused counts of R153(a) are operands the block answers. -/
  | sendjob (jobid : Byte) (nonce nbits ntime merkle : Word) (mids : List Midstate)
  /-- R86: a response frame of format `R`: value, chip address, register address, the three bits `f`
  the source does not name, and the five checksum bits `ck`. -/
  | resp (value : Word) (chip reg : Byte) (f : BitVec 3) (ck : BitVec 5)
  /-- R160: `RECV`. -/
  | recv
  /-- R112: `CRC5 bytes`. -/
  | crc5 (bytes : List Byte)
  /-- R116: `CRC16 bytes`. -/
  | crc16 (bytes : List Byte)
  /-- R140: `CFGPRE p`. -/
  | cfgpre (p : Bool)
  deriving DecidableEq, Repr

/-- What stands at the request port. A wire command is laid out as its body (R81, R83, R85); a frame
the bus side delivers as its body too (R86), and its direction tells it from a command (R97). The
four port operations have no wire form (R97) and stand with their operands. DESIGN CHOICE, log
entries 1 and 2. -/
inductive Request where
  | command (image : List Byte)
  | incoming (image : List Byte)
  | recv
  | crc5 (bytes : List Byte)
  | crc16 (bytes : List Byte)
  | cfgpre (p : Bool)
  deriving DecidableEq, Repr

/-- R92(a), R200, R206: why a descriptor is not an admitted form. -/
inductive DescriptorReason where
  /-- R153(a): a job with `n` midstates, `n` outside 1 to 4. -/
  | midstateCount (n : Nat)
  /-- R92(a), D6: body byte 0 is 0x31, a broadcast `SENDJOB`. -/
  | broadcastJob
  /-- R92(a), D5: a control command with `n` payload bytes, not the number of R84. -/
  | payloadSize (n : Nat)
  /-- R91: a byte 0 that spells no command of this spec. Log entry 20. -/
  | unknownOpcode (op : Byte)
  /-- An image of `n` bytes that is too short for its fields, or a job image that is not a whole
  number of midstates as its count says. Log entry 20. -/
  | malformed (n : Nat)
  deriving DecidableEq, Repr

/-- Why the request decoder gives no operation. -/
inductive Reject where
  /-- The host's command is no admitted form: the block answers `DescriptorError` (R206). -/
  | descriptor (why : DescriptorReason)
  /-- The bytes the bus side delivers are not a frame of format `R`: bytes on the line, no more (R240). -/
  | noise (bytes : List Byte)
  deriving DecidableEq, Repr

end Sys2Proof
end

