-- ==== Sys2Proof/Machine/Operands.lean ====
section
/-!
DEFINITION. The conversions of R10 and the operand assembly of R89: bytes of a word in both orders, a
word from bytes, bits of a byte sequence, the fields of a frame by body index, and the preambles of
R82.
-/

namespace Sys2Proof.Machine

/-- R10: `be32(v)`, most significant byte first. -/
def be32 (v : Word) : List Byte :=
  [v.extractLsb' 24 8, v.extractLsb' 16 8, v.extractLsb' 8 8, v.extractLsb' 0 8]

/-- R10: `le32(v)`, least significant byte first. -/
def le32 (v : Word) : List Byte :=
  [v.extractLsb' 0 8, v.extractLsb' 8 8, v.extractLsb' 16 8, v.extractLsb' 24 8]

/-- R10: `be16(v)`. -/
def be16 (v : BitVec 16) : List Byte :=
  [v.extractLsb' 8 8, v.extractLsb' 0 8]

/-- Byte `i` of a sequence. Every use stands behind a length check, so the 0 past the end is never
what an operation works with. -/
def byteAt (s : List Byte) (i : Nat) : Byte := s.getD i 0

/-- R10: `from_be32` of the four bytes at index `i` of a sequence. -/
def be32At (s : List Byte) (i : Nat) : Word :=
  byteAt s i ++ byteAt s (i + 1) ++ byteAt s (i + 2) ++ byteAt s (i + 3)

/-- The 32-bit number whose `le32` stands at index `i` (R52, R89). -/
def le32At (s : List Byte) (i : Nat) : Word :=
  byteAt s (i + 3) ++ byteAt s (i + 2) ++ byteAt s (i + 1) ++ byteAt s i

/-- R52, R85: the 32 bytes of a midstate at index `i`, as given, index 0 first. -/
def midstateAt (s : List Byte) (i : Nat) : Midstate :=
  Vector.ofFn fun k => byteAt s (i + k.val)

/-- R85: the `n` midstates that stand at body index 20 and after, `MID[k]` at `20 + 32k`. -/
def midstatesAt (s : List Byte) (n : Nat) : List Midstate :=
  (List.range n).map fun k => midstateAt s (20 + 32 * k)

/-- R89: midstates go out byte for byte, in order. -/
def midstateBytes (ms : List Midstate) : List Byte :=
  ms.flatMap Vector.toList

/-- R10: the bits of a byte, bit 7 first and bit 0 last. -/
def bitsOfByte (x : Byte) : List Bool :=
  [x.getLsbD 7, x.getLsbD 6, x.getLsbD 5, x.getLsbD 4,
   x.getLsbD 3, x.getLsbD 2, x.getLsbD 1, x.getLsbD 0]

/-- R10: `bits(s)`, bytes in index order. -/
def bitsOf (s : List Byte) : List Bool := s.flatMap bitsOfByte

/-- R166: three bits, most significant first. -/
def bitsOf3 (f : BitVec 3) : List Bool := [f.getLsbD 2, f.getLsbD 1, f.getLsbD 0]

/-- R113(b): `bits5(c)`, five bits, most significant first. -/
def bitsOf5 (c : BitVec 5) : List Bool :=
  [c.getLsbD 4, c.getLsbD 3, c.getLsbD 2, c.getLsbD 1, c.getLsbD 0]

/-- R130, R171: `zext_8` of a 5-bit CRC, the only widening of a number in the block. -/
def zext8 (c : BitVec 5) : Byte := c.setWidth 8

/-- R87: the opcode byte, `opcode | 0x10` when broadcast (90_conflicts C2: a bitwise OR). -/
def opByte (op : Byte) (b : Bool) : Byte := if b then op ||| 0x10 else op

/-- R88: `LEN = 4 + len(payload) + t`, as one byte. -/
def lenByte (payload trailer : Nat) : Byte := BitVec.ofNat 8 (4 + payload + trailer)

/-- R82: the outbound preamble, byte 0x55 first. -/
def preambleOut : List Byte := [0x55, 0xAA]

/-- R82: the inbound preamble, byte 0xAA first. -/
def preambleIn : List Byte := [0xAA, 0x55]

/-- R82: an outgoing frame on the wire: `55 AA` in front of the finished body when `CFG.PRE = 1`. -/
def wireOut (pre : Bool) (body : List Byte) : List Byte :=
  if pre then preambleOut ++ body else body

/-- R82, R166: an incoming frame on the wire: `AA 55` in front of the body when `CFG.PRE = 1`. -/
def wireIn (pre : Bool) (body : List Byte) : List Byte :=
  if pre then preambleIn ++ body else body

/-- R160: the bytes one `RECV` asks for, `n = 7 + 2 * CFG.PRE`. -/
def respLen (pre : Bool) : Nat := if pre then 9 else 7

/-- R86: the body of a response frame: `be32(v)`, chip address, register address, and the last byte
with `f` in bits 7:5 and the checksum in bits 4:0. -/
def respBody (value : Word) (chip reg : Byte) (f : BitVec 3) (ck : BitVec 5) : List Byte :=
  be32 value ++ [chip, reg, f ++ ck]

end Sys2Proof.Machine
end

