-- ==== Sys2Proof/Machine/Crc.lean ====
section
/-!
DEFINITION. The checksum module (40_crc.md): the one-bit steps R111 and R115, the CRC functions R112
and R116, and the byte-at-a-time forms of R118. The algorithm is the spec's reading of the source's
parameters (D3). PRESUMED: log entry 5.
-/

namespace Sys2Proof.Machine

/-- R111: `step5(r, b)`, polynomial 0x05. -/
def step5 (r : BitVec 5) (b : Bool) : BitVec 5 :=
  if r.getLsbD 4 ^^ b then (r <<< 1) ^^^ 0x05 else r <<< 1

/-- R111: `crc5_bits(r, q)`, the fold of `step5` over a bit sequence from its first bit. -/
def crc5Bits (r : BitVec 5) (q : List Bool) : BitVec 5 := q.foldl step5 r

/-- R112: `CRC5(s) = crc5_bits(0x1F, bits(s))`. -/
def crc5 (s : List Byte) : BitVec 5 := crc5Bits 0x1F (bitsOf s)

/-- R115: `step16(r, b)`, polynomial 0x1021. -/
def step16 (r : BitVec 16) (b : Bool) : BitVec 16 :=
  if r.getLsbD 15 ^^ b then (r <<< 1) ^^^ 0x1021 else r <<< 1

/-- R116: the bits of one byte in the order `CRC16_REFIN` selects. -/
def crc16ByteBits (p : Crc16Params) (x : Byte) : List Bool :=
  if p.refin then (bitsOfByte x).reverse else bitsOfByte x

/-- R116: `S.CRC16` after a byte sequence, the shift register itself. -/
def crc16Register (p : Crc16Params) (s : List Byte) : BitVec 16 :=
  (s.flatMap (crc16ByteBits p)).foldl step16 p.init

/-- R116: the value returned for a register value: its 16 bits reversed if `CRC16_REFOUT`, then XOR
with `CRC16_XOROUT`. -/
def crc16Finish (p : Crc16Params) (r : BitVec 16) : BitVec 16 :=
  (if p.refout then r.reverse else r) ^^^ p.xorout

/-- R116: `CRC16(s)` under the parameters `p`. -/
def crc16With (p : Crc16Params) (s : List Byte) : BitVec 16 := crc16Finish p (crc16Register p s)

/-- R116: `CRC16(s)` under the machine's own parameters (R8). -/
def crc16 (s : List Byte) : BitVec 16 := crc16With Config.crc16 s

/-- R118: one zero-bit step of the CRC-16 register, as the byte-at-a-time form writes it. -/
def crc16Shift (r : BitVec 16) : BitVec 16 :=
  if r.getLsbD 15 then (r <<< 1) ^^^ 0x1021 else r <<< 1

/-- R118: CRC-16 of one byte without input reflection: XOR the byte into the high half, then eight
shifts. -/
def crc16Byte (r : BitVec 16) (x : Byte) : BitVec 16 :=
  Nat.repeat crc16Shift 8 (r ^^^ (x ++ (0 : Byte)))

/-- R118: CRC-5 of one byte: XOR the top five bits in, five zero-bit steps, then the three low bits. -/
def crc5Byte (r : BitVec 5) (x : Byte) : BitVec 5 :=
  crc5Bits (crc5Bits (r ^^^ x.extractLsb' 3 5) (List.replicate 5 false))
    [x.getLsbD 2, x.getLsbD 1, x.getLsbD 0]

/-- R166: the five checksum bits of a response that passes: the CRC-5 of the 51 bits before them. -/
def respChecksum (value : Word) (chip reg : Byte) (f : BitVec 3) : BitVec 5 :=
  crc5Bits 0x1F (bitsOf (be32 value ++ [chip, reg]) ++ bitsOf3 f)

end Sys2Proof.Machine
end

