-- ==== Sys2Proof/WellFormed.lean ====
section
/-!
DEFINITION. Which operations are admitted forms (R92): a job carries 1 to 4 midstates (R153(a)), and a
response frame carries the checksum that leaves residue 0 (R164). Every other operand takes every
value (R92(c)).
-/

namespace Sys2Proof

open Machine

/-- R92, R164: the admitted forms. An operation that is not one of them still has its meaning: a job
with another count ends in `DescriptorError` (R153), a response with another checksum arrives and
the next `RECV` finds it. -/
def Instr.wf : Instr → Bool
  | .setaddr _ _ _ => true
  | .writereg _ _ _ _ => true
  | .readreg _ _ _ => true
  | .inactive _ _ _ => true
  | .sendjob _ _ _ _ _ mids => decide (1 ≤ mids.length) && decide (mids.length ≤ 4)
  | .resp value chip reg f ck => decide (Machine.crc5 (respBody value chip reg f ck) = 0)
  | .recv => true
  | .crc5 _ => true
  | .crc16 _ => true
  | .cfgpre _ => true

/-- R84: the five operations that send a frame. -/
def Instr.isWire : Instr → Bool
  | .setaddr _ _ _ => true
  | .writereg _ _ _ _ => true
  | .readreg _ _ _ => true
  | .inactive _ _ _ => true
  | .sendjob _ _ _ _ _ _ => true
  | .resp _ _ _ _ _ => false
  | .recv => false
  | .crc5 _ => false
  | .crc16 _ => false
  | .cfgpre _ => false

end Sys2Proof
end

