-- ==== Sys2Proof/Decode.lean ====
section
/-!
DEFINITION. Decoding and encoding. `decode` reads a request at the port into an operation, total on any
bytes, rejecting by name (R91, R92, R97). The encoders follow it, written from the format tables
(R81 to R90, R130, R150). `decodeFrame` is the strict inverse of R94 on whole outgoing frames.
-/

namespace Sys2Proof

open Machine

/-! ### The opcode map -/

/-- R84: the five commands that body byte 0 selects. -/
inductive Command where
  | setaddr | writereg | readreg | inactive | sendjob
  deriving DecidableEq, Repr

/-- R97: a row of the opcode table over body byte 0: `(body[0] & mask) = pat` selects `cmd`. -/
structure OpRow where
  cmd  : Command
  pat  : Byte
  mask : Byte
  deriving DecidableEq, Repr

/-- R97: the five rows of the outgoing commands; bit 4 is left out of the mask where it is the
broadcast flag. -/
def opRows : List OpRow :=
  [ ⟨.setaddr,  0x40, 0xEF⟩,
    ⟨.writereg, 0x41, 0xEF⟩,
    ⟨.readreg,  0x42, 0xEF⟩,
    ⟨.inactive, 0x43, 0xEF⟩,
    ⟨.sendjob,  0x21, 0xFF⟩ ]

/-- R97: does the row select this byte 0? -/
def OpRow.selects (r : OpRow) (op : Byte) : Bool := op &&& r.mask == r.pat

/-- R91, R97: the command that a byte 0 spells, if any. -/
def commandOf (op : Byte) : Option Command :=
  (opRows.find? fun r => r.selects op).map OpRow.cmd

/-- R87: bit 4 of byte 0 is the broadcast flag. -/
def broadcastOf (op : Byte) : Bool := op.getLsbD 4

/-! ### Decoding a request -/

/-- R81: the fields of a `C0` image, which has 5 bytes: no payload (R84). -/
def decodeC0 (mk : Bool → Byte → Byte → Instr) (w : List Byte) : Except Reject Instr :=
  if w.length = 5 then .ok (mk (broadcastOf (byteAt w 0)) (byteAt w 2) (byteAt w 3))
  else if w.length < 5 then .error (.descriptor (.malformed w.length))
  else .error (.descriptor (.payloadSize (w.length - 5)))

/-- R83: the fields of a `CW` image, which has 9 bytes: a 4-byte big-endian value (R84). -/
def decodeCW (w : List Byte) : Except Reject Instr :=
  if w.length = 9 then
    .ok (.writereg (broadcastOf (byteAt w 0)) (byteAt w 2) (byteAt w 3) (be32At w 4))
  else if w.length < 5 then .error (.descriptor (.malformed w.length))
  else .error (.descriptor (.payloadSize (w.length - 5)))

/-- R85: the fields of a `J` image, which has `22 + 32n` bytes with `n` in byte 3. An image of another length
is `malformed`, its count inside 1 to 4 or not; a count outside with a length that fits it is refused
by the operation itself (R153). R206 gives no order of the two (log entry 48). -/
def decodeJ (w : List Byte) : Except Reject Instr :=
  if w.length = 22 + 32 * (byteAt w 3).toNat then
    .ok (.sendjob (byteAt w 2) (le32At w 4) (le32At w 8) (le32At w 12) (le32At w 16)
      (midstatesAt w (byteAt w 3).toNat))
  else .error (.descriptor (.malformed w.length))

/-- R84: the fields of an image in the format of its command. -/
def decodeAs (c : Command) (w : List Byte) : Except Reject Instr :=
  match c with
  | .setaddr  => decodeC0 Instr.setaddr w
  | .writereg => decodeCW w
  | .readreg  => decodeC0 Instr.readreg w
  | .inactive => decodeC0 Instr.inactive w
  | .sendjob  => decodeJ w

/-- R97: an outgoing image by its byte 0. `LEN` and the trailer are not operands: the block computes
them (R88, R90), so the port does not read them (log entry 2); `decodeFrame` below checks them. A byte 0 of
0x31 is refused before the count or the length is looked at; R206 gives no order (log entry 48). -/
def decodeCommand : List Byte → Except Reject Instr
  | [] => .error (.descriptor (.malformed 0))
  | op :: t =>
    if op = 0x31 then .error (.descriptor .broadcastJob)
    else match commandOf op with
      | some c => decodeAs c (op :: t)
      | none => .error (.descriptor (.unknownOpcode op))

/-- R86: an incoming frame has 7 bytes and no opcode; any 7 bytes have fields. -/
def decodeIncoming (w : List Byte) : Except Reject Instr :=
  if w.length = 7 then
    .ok (.resp (be32At w 0) (byteAt w 4) (byteAt w 5)
      ((byteAt w 6).extractLsb' 5 3) ((byteAt w 6).extractLsb' 0 5))
  else .error (.noise w)

/-- The operation that stands at the request port. -/
def decode : Request → Except Reject Instr
  | .command w => decodeCommand w
  | .incoming w => decodeIncoming w
  | .recv => .ok .recv
  | .crc5 s => .ok (.crc5 s)
  | .crc16 s => .ok (.crc16 s)
  | .cfgpre p => .ok (.cfgpre p)

/-! ### Encoding -/

/-- R130: the body bytes of a control command before its trailer. -/
def ctlHead (op : Byte) (b : Bool) (chip reg : Byte) (payload : List Byte) : List Byte :=
  [opByte op b, lenByte payload.length 1, chip, reg] ++ payload

/-- R130: `encode_ctl(op, b, chip, reg, payload)`. -/
def encodeCtl (op : Byte) (b : Bool) (chip reg : Byte) (payload : List Byte) : List Byte :=
  ctlHead op b chip reg payload ++ [zext8 (crc5 (ctlHead op b chip reg payload))]

/-- R150: the payload of a job, four little-endian words and the midstates in order. -/
def jobPayload (nonce nbits ntime merkle : Word) (mids : List Midstate) : List Byte :=
  le32 nonce ++ le32 nbits ++ le32 ntime ++ le32 merkle ++ midstateBytes mids

/-- R150: the body bytes of a job before its trailer. -/
def jobHead (jobid : Byte) (nonce nbits ntime merkle : Word) (mids : List Midstate) : List Byte :=
  [0x21, lenByte (jobPayload nonce nbits ntime merkle mids).length 2, jobid,
    BitVec.ofNat 8 mids.length] ++ jobPayload nonce nbits ntime merkle mids

/-- R85, R117, R150: the body of a job, its CRC-16 high byte first, under the CRC-16 parameters `p`. -/
def encodeJob (p : Crc16Params) (jobid : Byte) (nonce nbits ntime merkle : Word)
    (mids : List Midstate) : List Byte :=
  jobHead jobid nonce nbits ntime merkle mids
    ++ be16 (crc16With p (jobHead jobid nonce nbits ntime merkle mids))

/-- R81, R83, R85, R86: the body of an operation's frame; the port operations have none (R97). -/
def bodyOf (p : Crc16Params) : Instr → List Byte
  | .setaddr b chip reg => encodeCtl 0x40 b chip reg []
  | .writereg b chip reg value => encodeCtl 0x41 b chip reg (be32 value)
  | .readreg b chip reg => encodeCtl 0x42 b chip reg []
  | .inactive b chip reg => encodeCtl 0x43 b chip reg []
  | .sendjob jobid nonce nbits ntime merkle mids =>
      encodeJob p jobid nonce nbits ntime merkle mids
  | .resp value chip reg f ck => respBody value chip reg f ck
  | .recv => []
  | .crc5 _ => []
  | .crc16 _ => []
  | .cfgpre _ => []

/-- R82: the whole outgoing frame of a wire command, as `BusWrite` gets it. -/
def frameOf (p : Crc16Params) (pre : Bool) (i : Instr) : List Byte := wireOut pre (bodyOf p i)

/-- The request that stands for an operation at the port. -/
def encode : Instr → Request
  | .setaddr b chip reg => .command (bodyOf Config.crc16 (.setaddr b chip reg))
  | .writereg b chip reg value => .command (bodyOf Config.crc16 (.writereg b chip reg value))
  | .readreg b chip reg => .command (bodyOf Config.crc16 (.readreg b chip reg))
  | .inactive b chip reg => .command (bodyOf Config.crc16 (.inactive b chip reg))
  | .sendjob jobid nonce nbits ntime merkle mids =>
      .command (bodyOf Config.crc16 (.sendjob jobid nonce nbits ntime merkle mids))
  | .resp value chip reg f ck => .incoming (bodyOf Config.crc16 (.resp value chip reg f ck))
  | .recv => .recv
  | .crc5 s => .crc5 s
  | .crc16 s => .crc16 s
  | .cfgpre p => .cfgpre p

/-! ### Decoding a whole outgoing frame (R94) -/

/-- R94: why a byte sequence is no frame of this block, in the order of the checks. -/
inductive FrameReject where
  | noPreamble
  | tooShort
  | lengthByte
  | opcode
  | formatLength
  | trailer
  deriving DecidableEq, Repr

/-- R94: strip `55 AA` when `CFG.PRE = 1`. -/
def stripOut (pre : Bool) (w : List Byte) : Option (List Byte) :=
  if pre then (if w.take 2 = preambleOut then some (w.drop 2) else none) else some w

/-- R94: the length the format of the command requires. -/
def formatLengthOk (c : Command) (body : List Byte) : Bool :=
  match c with
  | .setaddr => body.length == 5
  | .writereg => body.length == 9
  | .readreg => body.length == 5
  | .inactive => body.length == 5
  | .sendjob =>
      1 ≤ (byteAt body 3).toNat && (byteAt body 3).toNat ≤ 4 &&
        body.length == 22 + 32 * (byteAt body 3).toNat

/-- R90, R94: the trailer is the CRC of the bytes before it. -/
def trailerOk (p : Crc16Params) (c : Command) (body : List Byte) : Bool :=
  match c with
  | .sendjob =>
      body.drop (body.length - 2) == be16 (crc16With p (body.take (body.length - 2)))
  | .setaddr | .writereg | .readreg | .inactive =>
      body.drop (body.length - 1) == [zext8 (crc5 (body.take (body.length - 1)))]

/-- R94: an outgoing frame back into its descriptor, every check made, under the CRC-16 parameters. -/
def decodeFrame (p : Crc16Params) (pre : Bool) (w : List Byte) : Except FrameReject Instr :=
  match stripOut pre w with
  | none => .error .noPreamble
  | some body =>
    if body.length < 5 then .error .tooShort
    else if (byteAt body 1).toNat ≠ body.length then .error .lengthByte
    else match commandOf (byteAt body 0) with
      | none => .error .opcode
      | some c =>
        if !formatLengthOk c body then .error .formatLength
        else if !trailerOk p c body then .error .trailer
        else match decodeCommand body with
          | .ok i => .ok i
          | .error _ => .error .opcode

/-! ### Words numbered as the opcode table numbers them -/

/-- The first `n` bytes of a number, byte 0 its least significant. -/
def bytesOfNat (n w : Nat) : List Byte :=
  (List.range n).map fun k => BitVec.ofNat 8 (w >>> (8 * k))

/-- The request that lays out the table's word `w`: the bytes of its format, taken from byte 0; a word
that spells no outgoing command is the response row's, which has no opcode byte (R97; log entry
31). -/
def tableRequest (w : Nat) : Request :=
  match commandOf (BitVec.ofNat 8 w) with
  | some .setaddr => .command (bytesOfNat 5 w)
  | some .writereg => .command (bytesOfNat 9 w)
  | some .readreg => .command (bytesOfNat 5 w)
  | some .inactive => .command (bytesOfNat 5 w)
  | some .sendjob => .command (bytesOfNat (22 + 32 * ((w >>> 24) % 256)) w)
  | none =>
      if BitVec.ofNat 8 w = (0x31 : Byte) then .command (bytesOfNat 22 w)
      else .incoming (bytesOfNat 7 w)

/-- The instruction the decoder reads from an instruction whose bits are `w`, `nbits` of them given
and the rest 0. -/
def decodeTableWord (nbits w : Nat) : Option Instr :=
  match decode (tableRequest (w % 2 ^ nbits)) with
  | .ok i => some i
  | .error _ => none

end Sys2Proof
end

