-- ==== Sys2Proof/Machine/State.lean ====
section
/-!
DEFINITION. The state of the block and of the transport as the block sees it (10_state.md), as plain
data; the reasons a step can stop; the state after reset (R39, R230).
-/

namespace Sys2Proof.Machine

/-! ### Buffers -/

/-- R28, R29, R50: a frame buffer, as (index, byte) pairs. An unlisted index holds no value: R39 calls
the contents after reset unspecified and never read before written (log entry 7). -/
abbrev Memory := List Host.Cell

/-- The canonical form: indices strictly rising, so that equal buffers are equal lists. Every listed
cell holds a value and an unlisted one holds none, so no entry repeats what an unlisted index reads
as. -/
abbrev Memory.wf (m : Memory) : Prop := m.Pairwise fun x y => x.1 < y.1

/-- Every listed index lies below `size`. -/
abbrev Memory.within (size : Nat) (m : Memory) : Prop := ∀ c ∈ m, c.1 < size

/-- R28, R50: `TXBUF` has indices 0 to 151. -/
def txSize : Nat := 152

/-- R29, R50: `RXBUF` has indices 0 to 8. -/
def rxSize : Nat := 9

/-! ### Descriptors and result -/

/-- R26: the control descriptor `CMD.*`. -/
structure Cmd where
  op   : Byte
  b    : Bool
  chip : Byte
  reg  : Byte
  val  : Word
  deriving DecidableEq, Repr

/-- R27: the job descriptor `JOB.*`. -/
structure Job where
  id     : Byte
  nmid   : Byte
  nonce  : Word
  nbits  : Word
  ntime  : Word
  merkle : Word
  mid    : Vector Midstate 4
  deriving DecidableEq, Repr

/-- R30: the result latch `RES.*`. -/
structure Res where
  value : Word
  chip  : Byte
  reg   : Byte
  valid : Bool
  deriving DecidableEq, Repr

/-! ### Outcome of an operation -/

/-- R204, R57: the error value an `IoError` carries: the transport's own, unchanged and opaque (a
number that stands for it, log entry 27), or a short write of `count` bytes (D9). -/
inductive IoErr where
  | transport (e : Nat)
  | shortWrite (count : Nat)
  deriving DecidableEq, Repr

/-- R200: how an operation ends. -/
inductive OpOutcome where
  | ok
  | framingLength (count : Nat)
  | framingPreamble
  | checksumError
  | ioTimeout
  | ioError (e : IoErr)
  | descriptorError (why : DescriptorReason)
  deriving DecidableEq, Repr

/-- R31, R200: `STATUS.INFO`. -/
inductive StatusInfo where
  | nothing
  | count (n : Nat)
  | error (e : IoErr)
  | reason (why : DescriptorReason)
  deriving DecidableEq, Repr

/-- R11, R207: what the last operation handed to the host: no value, a CRC, the triple of a `RECV`, or
an error outcome. The model's own field (log entry 12). -/
inductive Returned where
  | nothing
  | crc5 (v : BitVec 5)
  | crc16 (v : BitVec 16)
  | response (value : Word) (chip reg : Byte)
  | raised (o : OpOutcome)
  deriving DecidableEq, Repr

/-- R33: `MODE`. -/
inductive Mode where
  | idle | tx | rx
  deriving DecidableEq, Repr

/-! ### Transport -/

/-- R35, R50, R56: the transport: the two byte streams, and how the bus side answers the coming calls
(R21, D22): the scripted answers first, then the free answers of Config, `draws` of which have been
used (log entry 9). -/
structure Bus where
  outbound    : List Byte
  inbound     : List Byte
  writeScript : List WriteAnswer
  readScript  : List ReadAnswer
  draws       : Nat
  deriving DecidableEq, Repr

/-! ### The state -/

/-- R20 to R35: everything the spec gives the block, the transport, and the model's own `returned`,
`pending` and `everFailed` (INVENTORY.md, State). -/
structure State where
  /-- R23: `CFG.PRE`. -/
  cfgPre : Bool
  /-- R24: `CRC5`. -/
  crc5 : BitVec 5
  /-- R25: `CRC16`. -/
  crc16 : BitVec 16
  /-- R26: `CMD.*`. -/
  cmd : Cmd
  /-- R27: `JOB.*`. -/
  job : Job
  /-- R28: `TXBUF`. -/
  txbuf : Memory
  /-- R28: `TXLEN`. -/
  txlen : BitVec 8
  /-- R29: `RXBUF`. -/
  rxbuf : Memory
  /-- R29: `RXCNT`. -/
  rxcnt : BitVec 4
  /-- R30: `RES.*`. -/
  res : Res
  /-- R31, R200: `STATUS`. -/
  status : BitVec 4
  /-- R31, R200: `STATUS.INFO`. -/
  info : StatusInfo
  /-- R33: `MODE`. -/
  mode : Mode
  /-- R34: `IDX`. -/
  idx : BitVec 8
  /-- R35: the transport. -/
  bus : Bus
  /-- R12, R95: what the host and the bus side do next, in order (log entry 1). -/
  pending : List Request
  /-- R11, R207: what the last operation handed to the host (log entry 12). -/
  returned : Returned
  /-- R212, D21: some operation has ended in an error; never cleared (log entry 11). -/
  everFailed : Bool
  deriving DecidableEq, Repr

/-! ### Reasons to stop -/

/-- Why an access faults. No operation of the table makes such an access (R171); the faults are those
of `memRead`, the spec's primitive for reading a buffer (R11). Both are safe: the model stops. -/
inductive Fault where
  /-- Raised by `memRead` at an index outside the buffer (R50, R171). Safe. -/
  | noSuchIndex (index : Nat)
  /-- Raised by `memRead` at an index nothing has written (R39, U9). Safe. -/
  | unwritten (index : Nat)
  deriving DecidableEq, Repr

/-- Why a request is refused. -/
inductive Refusal where
  /-- Raised by an arm of `exec` that gives no meaning yet; no arm does. Safe. -/
  | notModelled (mnemonic : String)
  /-- Raised by every operation of the block issued while `MODE` is not `IDLE` (R33, R63, U14: an
  operation issued while another is in progress is refused). Safe. -/
  | operationInProgress
  /-- Raised by `readRes` while `RES.VALID = 0` (R30, D10). Safe. -/
  | resultNotValid
  deriving DecidableEq, Repr

/-! ### Reset -/

/-- R39: `CMD.*` after reset is unspecified; DESIGN CHOICE all zero, unsafe, log entry 6. -/
def Cmd.reset : Cmd := { op := 0, b := false, chip := 0, reg := 0, val := 0 }

/-- R39: `JOB.*` after reset is unspecified; DESIGN CHOICE all zero, unsafe, log entry 6. -/
def Job.reset : Job :=
  { id := 0, nmid := 0, nonce := 0, nbits := 0, ntime := 0, merkle := 0,
    mid := Vector.replicate 4 (Vector.replicate 32 0) }

/-- R39: `RES.VALID = 0`, the rest unspecified; DESIGN CHOICE zero, unsafe, log entry 6. -/
def Res.reset : Res := { value := 0, chip := 0, reg := 0, valid := false }

/-- R39: the transport is not the block's to reset. The machine starts with a silent bus, empty
streams and no scripted answer; DESIGN CHOICE, unsafe, log entries 8 and 9. -/
def Bus.reset : Bus :=
  { outbound := [], inbound := [], writeScript := [], readScript := [], draws := 0 }

/-- R39, R230: the machine right after reset. `CFG.PRE` is the parameter `HAS_PREAMBLE` (log entry 3);
`STATUS = OK`, `STATUS.INFO` empty, `MODE = IDLE`, `IDX = 0`, `RES.VALID = 0`. -/
def State.reset : State :=
  { cfgPre := Config.hasPreamble
    crc5 := 0
    crc16 := 0
    cmd := Cmd.reset
    job := Job.reset
    txbuf := []
    txlen := 0
    rxbuf := []
    rxcnt := 0
    res := Res.reset
    status := 0
    info := .nothing
    mode := .idle
    idx := 0
    bus := Bus.reset
    pending := []
    returned := .nothing
    everFailed := false }

end Sys2Proof.Machine
end

