-- ==== Sys2Proof/Machine/Flags.lean ====
section
/-!
DEFINITION. The block's only flag, `STATUS` with `STATUS.INFO` (R31): what each outcome puts there
(R200), and which pairs of the two are the record of an outcome.
-/

namespace Sys2Proof.Machine

/-- R200: the code of an outcome. -/
def OpOutcome.code : OpOutcome → BitVec 4
  | .ok => 0
  | .framingLength _ => 1
  | .framingPreamble => 2
  | .checksumError => 3
  | .ioTimeout => 4
  | .ioError _ => 5
  | .descriptorError _ => 6

/-- R200's table, column "Recorded in `STATUS.INFO`", which R207 has `raise` write. For `DescriptorError` it
names the reason, where R31's summary ends "otherwise nothing" (log entry 33). -/
def OpOutcome.info : OpOutcome → StatusInfo
  | .ok => .nothing
  | .framingLength count => .count count
  | .framingPreamble => .nothing
  | .checksumError => .nothing
  | .ioTimeout => .nothing
  | .ioError e => .error e
  | .descriptorError why => .reason why

/-- R213, D21: the four kinds of gone wrong. No operation of the block is ever stuck. -/
inductive GoneWrong where
  | fault | refused | stuck | hang
  deriving DecidableEq, Repr

/-- R213: the kind of an outcome: codes 1 to 5 are faults, `DescriptorError` is refused. The kind stands
beside the next state (log entries 10, 44). -/
def OpOutcome.kind : OpOutcome → Option GoneWrong
  | .ok => none
  | .framingLength _ => some .fault
  | .framingPreamble => some .fault
  | .checksumError => some .fault
  | .ioTimeout => some .fault
  | .ioError _ => some .fault
  | .descriptorError _ => some .refused

/-- R213: the kind of a state: a transport call hangs (R246), or `STATUS` says how the last operation
ended (log entries 44, 47). -/
def State.kind (s : State) : Option GoneWrong :=
  if s.mode ≠ .idle then some .hang
  else if s.status = 0 then none
  else if s.status = 6 then some .refused
  else some .fault

/-- R31, R200: do a `STATUS` and a `STATUS.INFO` record the same outcome? -/
def statusLegal (code : BitVec 4) (info : StatusInfo) : Bool :=
  match info with
  | .nothing => code == 0 || code == 2 || code == 3 || code == 4
  | .count _ => code == 1
  | .error _ => code == 5
  | .reason _ => code == 6

end Sys2Proof.Machine
end

