-- ==== Sys2Proof/Machine/Ops.lean ====
section
/-!
DEFINITION. The named operations over buffers, latches and the transport (R11, R57, R58, R171), and the
two ways an operation ends: `raise`, the whole of exception entry (R207), and `finish` (R11). There is
no return from an exception (R211): after either the block is idle and takes the next operation.
-/

namespace Sys2Proof.Machine

/-- What a step, a meaning or an access answers. -/
abbrev Result (α : Type) := Host.Outcome α Fault Refusal

/-- R213: what a step came to. The rule classes outcomes; a step that ends no operation (bytes that arrive,
an empty port) has the kind of the state it leaves, that of the operation before it (log entry 47). -/
def kindOf : Result State → Option GoneWrong
  | .next t => t.kind
  | .fault _ => some .fault
  | .refused _ => some .refused

/-! ### Buffers: `MemRead` and `MemWrite` (R11, R171) -/

/-- One byte into a buffer, the canonical form kept. -/
def Memory.put (a : Nat) (v : Byte) : Memory → Memory
  | [] => [(a, v)]
  | c :: m =>
    if a < c.1 then (a, v) :: c :: m
    else if a = c.1 then (a, v) :: m
    else c :: Memory.put a v m

/-- The byte at an index, if something has written it. -/
def Memory.get? (a : Nat) : Memory → Option Byte
  | [] => none
  | c :: m => if a = c.1 then some c.2 else Memory.get? a m

/-- R11: `MemWrite(buf, a, n, v)` on a buffer of `size` bytes. An index outside the buffer has no byte
to write; none arises (R171, log entry 7). -/
def Memory.write (size : Nat) : Nat → List Byte → Memory → Memory
  | _, [], m => m
  | a, v :: vs, m => Memory.write size (a + 1) vs (if a < size then Memory.put a v m else m)

/-- R11: `MemRead(buf, a, n)` on a buffer of `size` bytes. -/
def Memory.read (size : Nat) (m : Memory) (a : Nat) : Nat → Result (List Byte)
  | 0 => .next []
  | n + 1 =>
    if a < size then
      match Memory.get? a m with
      | none => .fault (.unwritten a)
      | some v =>
        match Memory.read size m (a + 1) n with
        | .next vs => .next (v :: vs)
        | .fault f => .fault f
        | .refused r => .refused r
    else .fault (.noSuchIndex a)

/-- R50: the two frame buffers. -/
inductive Buf where
  | tx | rx
  deriving DecidableEq, Repr

/-- R11, R50: `MemRead(buf, a, n)` in a state. -/
def memRead (buf : Buf) (a n : Nat) (s : State) : Result (List Byte) :=
  match buf with
  | .tx => Memory.read txSize s.txbuf a n
  | .rx => Memory.read rxSize s.rxbuf a n

/-! ### Latches -/

/-- R30: `S.RES.VALID <- 0`. -/
def clearValid (s : State) : State := { s with res := { s.res with valid := false } }

/-- R160, R161: the result of a `RECV` that ends OK. -/
def latchRes (value : Word) (chip reg : Byte) (s : State) : State :=
  { s with res := { value := value, chip := chip, reg := reg, valid := true } }

/-- R30, D10: the host reads the result latch; with `RES.VALID = 0` that is refused, never a value. -/
def readRes (s : State) : Result (Word × Byte × Byte) :=
  if s.res.valid then .next (s.res.value, s.res.chip, s.res.reg) else .refused .resultNotValid

/-- R26, R131: `S.CMD.* <- operands`. `CMD.VAL` is an operand of `WRITEREG` alone and keeps its value
under the other three (log entry 17). -/
def latchCmd (op : Byte) (b : Bool) (chip reg : Byte) (val : Option Word) (s : State) : State :=
  { s with cmd := { op := op, b := b, chip := chip, reg := reg, val := val.getD s.cmd.val } }

/-- R27: `JOB.MID` with the midstates of the operands in its first places; the places past them keep
their values (log entry 17). -/
def latchMids (mids : List Midstate) (old : Vector Midstate 4) : Vector Midstate 4 :=
  Vector.ofFn fun k => mids.getD k.val old[k]

/-- R27, R150: `S.JOB.* <- operands; S.JOB.NMID <- n`. -/
def latchJob (jobid : Byte) (nonce nbits ntime merkle : Word) (mids : List Midstate) (s : State) :
    State :=
  { s with job :=
      { id := jobid, nmid := BitVec.ofNat 8 mids.length, nonce := nonce, nbits := nbits,
        ntime := ntime, merkle := merkle, mid := latchMids mids s.job.mid } }

/-- R24: `S.CRC5 <- v`. -/
def setCrc5 (v : BitVec 5) (s : State) : State := { s with crc5 := v }

/-- R25: `S.CRC16 <- v`. -/
def setCrc16 (v : BitVec 16) (s : State) : State := { s with crc16 := v }

/-- R23: `S.CFG.PRE <- p`. -/
def setPre (p : Bool) (s : State) : State := { s with cfgPre := p }

/-- R33: `S.MODE <- m`. -/
def setMode (m : Mode) (s : State) : State := { s with mode := m }

/-- R34: `S.IDX <- n`. -/
def setIdx (n : Nat) (s : State) : State := { s with idx := BitVec.ofNat 8 n }

/-- R28, R131: `MemWrite(TXBUF, 0, len(frame), frame); S.TXLEN <- len(frame)`. -/
def storeTx (frame : List Byte) (s : State) : State :=
  { s with txbuf := Memory.write txSize 0 frame s.txbuf, txlen := BitVec.ofNat 8 frame.length }

/-- R29, R160: `MemWrite(RXBUF, 0, len(w), w); S.RXCNT <- len(w)`. -/
def storeRx (w : List Byte) (s : State) : State :=
  { s with rxbuf := Memory.write rxSize 0 w s.rxbuf, rxcnt := BitVec.ofNat 4 w.length }

/-- The transport after a call. -/
def setBus (b : Bus) (s : State) : State := { s with bus := b }

/-- The request taken from the port; the rest stay. -/
def setPending (rs : List Request) (s : State) : State := { s with pending := rs }

/-! ### Transport (R56 to R60) -/

/-- R21, D22: the bus side's answer to the next `BusWrite`: the script's, else a free value. -/
def Bus.nextWrite (b : Bus) : WriteAnswer :=
  match b.writeScript with
  | a :: _ => a
  | [] => Config.busWriteAnswer b.draws

/-- The answer to a `BusWrite` used up. -/
def Bus.popWrite (b : Bus) : Bus :=
  match b.writeScript with
  | _ :: rest => { b with writeScript := rest }
  | [] => { b with draws := b.draws + 1 }

/-- R21, D22: the bus side's answer to the next `BusRead`: the script's, else a free value. -/
def Bus.nextRead (b : Bus) : ReadAnswer :=
  match b.readScript with
  | a :: _ => a
  | [] => Config.busReadAnswer b.draws

/-- The answer to a `BusRead` used up. -/
def Bus.popRead (b : Bus) : Bus :=
  match b.readScript with
  | _ :: rest => { b with readScript := rest }
  | [] => { b with draws := b.draws + 1 }

/-- R57: what `write` did with a frame of `n` bytes. `count > len(s)` cannot happen, so the counts of
an answer are cut at `n` (log entry 13). -/
def cutAnswer (n : Nat) : WriteAnswer → WriteAnswer
  | .ok count => .ok (min count n)
  | .err e sent => .err e (min sent n)
  | .never sent => .never (min sent n)

/-- R57, R208: how many bytes of the frame went out. -/
def bytesOut : WriteAnswer → Nat
  | .ok count => count
  | .err _ sent => sent
  | .never sent => sent

/-- R57: `BusWrite(s)`, one call of the transport's `write`: its answer, and the transport after it,
with the bytes that went out appended to the outbound stream, in order. -/
def busWrite (frame : List Byte) (b : Bus) : WriteAnswer × Bus :=
  let a := cutAnswer frame.length b.nextWrite
  (a, { b.popWrite with outbound := b.outbound ++ frame.take (bytesOut a) })

/-- R58: what one `BusRead` gives the block. -/
inductive ReadOutcome where
  | ok (w : List Byte)
  | timeout
  | err (e : Nat)
  | never
  deriving DecidableEq, Repr

/-- R58: how many bytes of a stream of `avail` bytes a `read` with a buffer of `n` bytes removes. A
timeout removes none (R203, R208); an error discards the bytes delivered with it (D8). What a call that
never returns has taken is open and its answer's (log entry 39). -/
def bytesTaken (n : Nat) : ReadResult → Nat
  | .data count => min count n
  | .timeout => 0
  | .err _ dropped => min dropped n
  | .never taken => min taken n

/-- R58: what the block gets of the inbound stream `inb`. -/
def readOutcome (n : Nat) (inb : List Byte) : ReadResult → ReadOutcome
  | .data count => .ok (inb.take (min count n))
  | .timeout => .timeout
  | .err e _ => .err e
  | .never _ => .never

/-- R58: `BusRead(n)`, one call of the transport's `read`: what it gives, and the transport after it.
The bytes that arrive while the call waits join the inbound stream first; what is taken leaves its
head (R35, R60). -/
def busRead (n : Nat) (b : Bus) : ReadOutcome × Bus :=
  let a := b.nextRead
  let inb := b.inbound ++ a.arriving
  (readOutcome n inb a.result, { b.popRead with inbound := inb.drop (bytesTaken n a.result) })

/-- R35, R210: bytes arrive on the inbound stream and wait there. -/
def arrive (w : List Byte) (s : State) : State :=
  { s with bus := { s.bus with inbound := s.bus.inbound ++ w } }

/-! ### How an operation ends -/

/-- R207: `raise K(info)`: the code and the info into `STATUS`, the mode to `IDLE`, the outcome handed
to the host; nothing is saved and control goes nowhere. `RES.VALID` stays 0: it was cleared when the
operation began. The never-cleared record of D21 is set. -/
def raise (o : OpOutcome) (s : State) : State :=
  { s with status := o.code, info := o.info, mode := .idle, returned := .raised o,
           everFailed := true }

/-- R11, R131: the operation ends with outcome OK and hands `v` to the host. -/
def finish (v : Returned) (s : State) : State :=
  { s with status := OpOutcome.ok.code, info := OpOutcome.ok.info, mode := .idle, returned := v }

/-- R33, R63: an operation is accepted only in `IDLE`; one issued while another has not ended is
refused (U14). -/
def whenIdle (f : State → State) (s : State) : Result State :=
  if s.mode = .idle then .next (f s) else .refused .operationInProgress

/-- R206: `DescriptorError(why)`: `RES.VALID` is cleared first, and no other state but `STATUS`
changes, no byte is written. -/
def refuseDescriptor (why : DescriptorReason) (s : State) : State :=
  raise (.descriptorError why) (clearValid s)

/-! ### Reset as an event -/

/-- R230, R37: reset of a running machine writes `CFG.PRE`, `RES.VALID`, `STATUS`, `MODE` and `IDX`, and
no other element of the block: what R39 calls unspecified keeps what it held (log entry 29). The
transport, the requests still to come, and the never-cleared record stay. -/
def resetBlock (s : State) : State :=
  { s with cfgPre := Config.hasPreamble, res := { s.res with valid := false },
           status := OpOutcome.ok.code, info := OpOutcome.ok.info, mode := .idle, idx := 0,
           returned := .nothing }

end Sys2Proof.Machine
end

