-- ==== Sys2Proof/Machine/Checksum.lean ====
section
/-!
DEFINITION. The port operations of the checksum module (40_crc.md).
-/

namespace Sys2Proof.Machine

/-- R112: `CRC5 bytes`: the register loaded and advanced, its value returned, `STATUS <- OK`. -/
def execCrc5 (bytes : List Byte) (s : State) : Result State :=
  whenIdle (fun s => finish (.crc5 (crc5 bytes)) (setCrc5 (crc5 bytes) s)) s

/-- R116: `CRC16 bytes`: the register loaded and advanced, the value behind `CRC16_REFOUT` and
`CRC16_XOROUT` returned, `STATUS <- OK`. -/
def execCrc16 (bytes : List Byte) (s : State) : Result State :=
  whenIdle
    (fun s => finish (.crc16 (crc16 bytes)) (setCrc16 (crc16Register Config.crc16 bytes) s)) s

end Sys2Proof.Machine
end

