-- ==== Sys2Proof/Machine/Send.lean ====
section
/-!
DEFINITION. The send sequence (R131, R150) that the four control commands and the job command share,
from the finished body to the outcome of the one `BusWrite`.
-/

namespace Sys2Proof.Machine

/-- R131: how a send ends, given the transport's answer for a frame of `n` bytes. `IDX` is the index
of the next byte to hand over (R34, log entry 16). A call that never returns leaves `MODE` at `TX`
(R246, log entry 15). -/
def endSend (n : Nat) (a : WriteAnswer) (s : State) : State :=
  match a with
  | .ok count =>
    if count < n then raise (.ioError (.shortWrite count)) (setIdx count s)
    else finish .nothing (setIdx count s)
  | .err e sent => raise (.ioError (.transport e)) (setIdx sent s)
  | .never sent => setMode .tx (setIdx sent s)

/-- R131, R150: preamble, `TXBUF`, `TXLEN`, exactly one `BusWrite`, and the end of the operation. -/
def transmit (body : List Byte) (s : State) : State :=
  let frame := wireOut s.cfgPre body
  let call := busWrite frame s.bus
  endSend frame.length call.1 (setBus call.2 (storeTx frame s))

/-- R131: a control send whose descriptor is admitted. `payload` is what R84 gives the opcode for the
latched value. The CRC-5 register ends at the trailer's value (R24, R130). -/
def sendControl (op : Byte) (b : Bool) (chip reg : Byte) (val : Option Word) (s : State) : State :=
  let s := latchCmd op b chip reg val (clearValid s)
  let payload := if val.isSome then be32 s.cmd.val else []
  let s := setCrc5 (crc5 (ctlHead s.cmd.op s.cmd.b s.cmd.chip s.cmd.reg payload)) s
  transmit (encodeCtl s.cmd.op s.cmd.b s.cmd.chip s.cmd.reg payload) s

end Sys2Proof.Machine
end

