-- ==== Sys2Proof/Machine/Control.lean ====
section
/-!
DEFINITION. The control commands and the configuration operation (41_control_commands.md).
-/

namespace Sys2Proof.Machine

/-- R132: `SETADDR[.B] chip, reg`. -/
def execSetaddr (b : Bool) (chip reg : Byte) (s : State) : Result State :=
  whenIdle (sendControl 0x40 b chip reg none) s

/-- R133: `WRITEREG[.B] chip, reg, value`. -/
def execWritereg (b : Bool) (chip reg : Byte) (value : Word) (s : State) : Result State :=
  whenIdle (sendControl 0x41 b chip reg (some value)) s

/-- R134: `READREG[.B] chip, reg`. It does not read: the host issues `RECV` next. -/
def execReadreg (b : Bool) (chip reg : Byte) (s : State) : Result State :=
  whenIdle (sendControl 0x42 b chip reg none) s

/-- R135: `INACTIVE[.B] chip, reg`. -/
def execInactive (b : Bool) (chip reg : Byte) (s : State) : Result State :=
  whenIdle (sendControl 0x43 b chip reg none) s

/-- R140: `CFGPRE p`. -/
def execCfgpre (p : Bool) (s : State) : Result State :=
  whenIdle (fun s => finish .nothing (setPre p s)) s

end Sys2Proof.Machine
end

