-- ==== Sys2Proof/Machine/JobCommand.lean ====
section
/-!
DEFINITION. The job command (42_job_command.md).
-/

namespace Sys2Proof.Machine

/-- R150: a job whose descriptor is admitted. The CRC-16 register ends at the register value behind the
trailer (R25, R116). -/
def sendAdmittedJob (jobid : Byte) (nonce nbits ntime merkle : Word) (mids : List Midstate)
    (s : State) : State :=
  let s := latchJob jobid nonce nbits ntime merkle mids (clearValid s)
  let s := setCrc16
    (crc16Register Config.crc16
      (jobHead s.job.id s.job.nonce s.job.nbits s.job.ntime s.job.merkle mids)) s
  transmit
    (encodeJob Config.crc16 s.job.id s.job.nonce s.job.nbits s.job.ntime s.job.merkle mids) s

/-- R150, R153: `SENDJOB`. A midstate count outside 1 to 4 ends in `DescriptorError(MidstateCount(n))`
before any byte is sent. -/
def sendJob (jobid : Byte) (nonce nbits ntime merkle : Word) (mids : List Midstate) (s : State) :
    State :=
  if mids.length < 1 ∨ mids.length > 4 then refuseDescriptor (.midstateCount mids.length) s
  else sendAdmittedJob jobid nonce nbits ntime merkle mids s

/-- R150: `SENDJOB jobid, nonce, nbits, ntime, merkle, mid0[, mid1[, mid2[, mid3]]]`. -/
def execSendjob (jobid : Byte) (nonce nbits ntime merkle : Word) (mids : List Midstate)
    (s : State) : Result State :=
  whenIdle (sendJob jobid nonce nbits ntime merkle mids) s

end Sys2Proof.Machine
end

