-- ==== Sys2Proof/Machine/Receive.lean ====
section
/-!
DEFINITION. Receiving (43_response_decode.md): `RECV`, and the arrival of a response frame.
-/

namespace Sys2Proof.Machine

/-- R163, R34: the index of the first of the two preamble bytes that is wrong. -/
def preambleFault (w : List Byte) : Nat := if byteAt w 0 = 0xAA then 1 else 0

/-- R164, R161: the checksum check over the 7 body bytes, and the result. The CRC-5 register ends at
the residue (R24); `n`, the bytes of the response, have been checked (R34, log entry 16). -/
def checkBody (n : Nat) (body : List Byte) (s : State) : State :=
  let s := setIdx n (setCrc5 (crc5 body) s)
  if crc5 body ≠ 0 then raise .checksumError s
  else
    finish (.response (be32At body 0) (byteAt body 4) (byteAt body 5))
      (latchRes (be32At body 0) (byteAt body 4) (byteAt body 5) s)

/-- R163: the preamble check, made only when `CFG.PRE = 1`, before the checksum (R205). -/
def checkPreamble (w : List Byte) (s : State) : State :=
  if s.cfgPre then
    if w.take 2 ≠ preambleIn then raise .framingPreamble (setIdx (preambleFault w) s)
    else checkBody 9 (w.drop 2) s
  else checkBody 7 w s

/-- R162: the length check, before any byte is looked at (R205). -/
def checkResponse (w : List Byte) (s : State) : State :=
  if w.length ≠ respLen s.cfgPre then raise (.framingLength w.length) s
  else checkPreamble w s

/-- R160: `RECV` after its one `BusRead`, in the order of R205. A call that never returns leaves `MODE`
at `RX` (R246, log entry 15). -/
def endRecv (r : ReadOutcome) (s : State) : State :=
  match r with
  | .timeout => raise .ioTimeout s
  | .err e => raise (.ioError (.transport e)) s
  | .ok w => checkResponse w (storeRx w s)
  | .never => setMode .rx s

/-- R160: the body of `RECV`: exactly one `BusRead` of 7 or 9 bytes. -/
def receive (s : State) : State :=
  let s := setIdx 0 (clearValid s)
  let call := busRead (respLen s.cfgPre) s.bus
  endRecv call.1 (setBus call.2 s)

/-- R160: `RECV`. -/
def execRecv (s : State) : Result State := whenIdle receive s

/-- R86, R166, R35, R210: a response frame, `AA 55` in front when `CFG.PRE = 1` (R82, log entry 19),
arrives from the bus side. It waits on the inbound stream, raises nothing, and the block need not be
idle (log entry 18). -/
def execResp (value : Word) (chip reg : Byte) (f : BitVec 3) (ck : BitVec 5) (s : State) :
    Result State :=
  .next (arrive (wireIn s.cfgPre (respBody value chip reg f ck)) s)

end Sys2Proof.Machine
end

