-- ==== Sys2Proof/Machine/Dispatch.lean ====
section
/-!
DEFINITION. One arm per row of the opcode table, each one call of that operation's meaning.
-/

namespace Sys2Proof.Machine

def exec (i : Instr) (s : State) : Host.Outcome State Fault Refusal :=
  match i with
  | .setaddr b chip reg => Sys2Proof.Machine.execSetaddr b chip reg s
  | .writereg b chip reg value => Sys2Proof.Machine.execWritereg b chip reg value s
  | .readreg b chip reg => Sys2Proof.Machine.execReadreg b chip reg s
  | .inactive b chip reg => Sys2Proof.Machine.execInactive b chip reg s
  | .sendjob jobid nonce nbits ntime merkle mids => Sys2Proof.Machine.execSendjob jobid nonce nbits ntime merkle mids s
  | .resp value chip reg f ck => Sys2Proof.Machine.execResp value chip reg f ck s
  | .recv => Sys2Proof.Machine.execRecv s
  | .crc5 bytes => Sys2Proof.Machine.execCrc5 bytes s
  | .crc16 bytes => Sys2Proof.Machine.execCrc16 bytes s
  | .cfgpre p => Sys2Proof.Machine.execCfgpre p s

end Sys2Proof.Machine
end

