-- ==== Sys2Proof/Machine/Port.lean ====
section
/-!
DEFINITION. The request port: what the step takes from it, and what a request that is no operation
does (log entries 1, 20, 21).
-/

namespace Sys2Proof.Machine

/-- A request that decodes to no operation: a command that is no admitted form ends in
`DescriptorError` and sends nothing (R92(a), R131, R206); bytes that are no response frame arrive on the
inbound stream as they are (R240, D22). -/
def takeReject (r : Reject) (s : State) : Result State :=
  match r with
  | .descriptor why => whenIdle (refuseDescriptor why) s
  | .noise bytes => .next (arrive bytes s)

/-- Lay the table's word at the head of the port, so that it is the next request taken. -/
def placeWord (nbits w : Nat) (s : State) : State :=
  setPending (tableRequest (w % 2 ^ nbits) :: s.pending) s

end Sys2Proof.Machine
end

