-- ==== Sys2Proof/Machine/Step.lean ====
section
/-!
DEFINITION. One step: the next request of the port is taken, decoded and carried out to its end
(R12, R63). With nothing requested the block is idle and changes nothing (R21).
-/

namespace Sys2Proof.Machine

/-- R12, R21, R38: one atomic transition of the block. -/
def step (s : State) : Host.Outcome State Fault Refusal :=
  match s.pending with
  | [] => .next s
  | r :: rest =>
    match decode r with
    | .ok i => exec i (setPending rest s)
    | .error why => takeReject why (setPending rest s)

/-- The table's word where `step` takes its next request. -/
def State.withFetchWord (s : State) (nbits w : Nat) : State := placeWord nbits w s

end Sys2Proof.Machine
end

