-- ==== Sys2Proof/Machine/Controller.lean ====
section
/-!
DEFINITION. The surrounding controller (44_controller_sequences.md), outside the block (R5), as the
spec keeps it: its chain and chips (R190), and its pseudo-operations over the block's operations. The
numbers the source does not give are fields of `Vocabulary` (log entry 25). Nothing here is state of
the block (R22).
-/

namespace Sys2Proof.Machine

/-! ### What the source names and gives no number for -/

/-- R189, N10: the bit positions of the three fields of `MiscControl` that `setBaudrate` writes. -/
structure MiscFields where
  /-- The 5-bit low field of the divider. -/
  low : Fin 5 → Fin 32
  /-- The 4-bit high field of the divider. -/
  high : Fin 4 → Fin 32
  /-- The "high-speed" bit. -/
  speed : Fin 32

/-- R191, N5, N6, N10, N11, D13, D20: the vocabulary of the controller. The widths of `coreId` and
`coreRegId` are not in the source, so both are natural numbers (log entry 34). -/
structure Vocabulary where
  /-- R8, D13: the settle delays and the read timeout. -/
  times : Times
  /-- `RA_ChipAddress`. -/
  raChipAddress : Byte
  /-- `RA_CoreRegisterControl`. -/
  raCoreRegisterControl : Byte
  /-- `RA_CoreRegisterValue`. -/
  raCoreRegisterValue : Byte
  /-- `RA_MiscControl`. -/
  raMiscControl : Byte
  /-- The fast-UART divider register. -/
  raFastUart : Byte
  /-- The four PLL parameter registers. -/
  raPll : Fin 4 → Byte
  /-- The ticket mask. -/
  raTicketMask : Byte
  /-- The clock ordering control registers, by index; their number is not in the source. -/
  raClockOrdering : Nat → Byte
  /-- The "two-phase ordered-clock enable". -/
  raOrderedClockEnable : Byte
  /-- R182, N6: `chip` and `reg` of `INACTIVE.B`. -/
  inactiveChip : Byte
  inactiveReg : Byte
  /-- R183, N6: `reg` of `SETADDR`. -/
  setaddrReg : Byte
  /-- R184, U11: `chip` of the initialisation's broadcast writes (log entry 35). -/
  initChip : Byte
  /-- R184, N10: the writes of the initialisation, group by group: register index and value of each
  clock ordering control write, then the values of each other group. -/
  initClockOrdering : List (Nat × Word)
  initOrderedClock : List Word
  initCoreControl : List Word
  initTicketMask : List Word
  initMisc : List Word
  /-- R185, N5: the supported register set. -/
  registerSet : List Byte
  /-- R185, N5: the undocumented addresses that are probed. -/
  unknownSet : List Byte
  /-- R186: the core-register set. -/
  coreRegisterSet : List Nat
  /-- R187, D20: `ctl(coreRegId, coreId)`, of which nothing is assumed. -/
  ctl : Nat → Nat → Word
  /-- R186, N11: the core id echoed in a response value. -/
  echoedCore : Word → Nat
  /-- R186, N11: the core-register value in a response value. -/
  coreValue : Word → BitVec 16
  /-- R188, U13: the bits the product `inputClockHz * fbdiv` is formed in. -/
  productWidth : Nat
  /-- R188: what `pllFrequency` answers for a quotient that is no `uint32`; not in the source (log
  entry 43). -/
  pllOverflow : Nat → Word
  /-- R189, N10: the PLL3 high-speed configuration, whether its writes are broadcast, and their `chip`. -/
  pll3Config : Word
  pll3Broadcast : Bool
  pll3Chip : Byte
  /-- R189, N10: the fast-UART divider value, whether its write is broadcast, and its `chip`. -/
  fastUartConfig : Word
  fastUartBroadcast : Bool
  fastUartChip : Byte
  /-- R189, N10: the derived base clock above the threshold. -/
  derivedClock : Nat
  /-- R189, N10: where the three fields of `MiscControl` stand. -/
  misc : MiscFields
  /-- R189, R239, U11: `chip` of the broadcast write of `MiscControl`; the source gives "to address 0" for
  discovery only, so it is an argument (log entry 35). -/
  miscChip : Byte

/-- R209: the error kinds of the controller. The last four are how the block's own ends reach it: an
error outcome (R204, R207), an operation that has not ended (R246), one refused because another has
not ended (R63), and the model's bound on a loop that has none (R181). -/
inductive ControllerError where
  | protocolMismatch
  | range
  | notFound
  | configuration
  | alreadyConfigured
  | arithmetic
  | noChips
  | block (o : OpOutcome)
  | blocked
  | busy
  | bound
  deriving DecidableEq, Repr

/-- R180: a line of a host program: an operation; a settle delay of at least `t`, in which the block
takes no part; and the switch of the transport's own speed, which is the caller's (R172, R239). -/
inductive HostLine where
  | op (i : Instr)
  | delay (t : Nat)
  | transportSpeed (baud : Nat)
  deriving DecidableEq, Repr

/-! ### Chips and chains (R190) -/

/-- R190: a chip's caches: register address to last-known value, core-register id to last-known value,
and R187's last requested core-register id. -/
structure Chip where
  regs     : List (Byte × Word)
  coreRegs : List (Nat × BitVec 16)
  lastCore : Option Nat
  deriving DecidableEq, Repr

/-- R180: the states of the enumeration. -/
inductive Enumeration where
  | unconfigured | ready
  deriving DecidableEq, Repr

/-- R190: a chain: the chips in discovery order, the generation flag, the nominal input clock, and the
state of the enumeration. -/
structure Chain where
  chips       : List Chip
  hasPreamble : Bool
  inputClock  : Nat
  stage       : Enumeration
  deriving DecidableEq, Repr

/-- R231: the creation of a chain: no chips, `Unconfigured`, the rest given by the caller. A chain is
never reset. -/
def newChain (hasPreamble : Bool) (inputClock : Nat) : Chain :=
  { chips := [], hasPreamble := hasPreamble, inputClock := inputClock, stage := .unconfigured }

/-- R8, R190: the block of a chain right after reset: only `hasPreamble` reaches it, as `CFG.PRE`. -/
def Chain.block (c : Chain) : State := { State.reset with cfgPre := c.hasPreamble }

/-- The controller: its chain, the block it drives, and what it has done so far, in order; the last is
the model's own record, so that a delay can be seen (log entry 45). -/
structure Controller where
  chain : Chain
  block : State
  done  : List HostLine
  deriving DecidableEq, Repr

/-- A controller with a new chain and its block. -/
def newController (hasPreamble : Bool) (inputClock : Nat) : Controller :=
  { chain := newChain hasPreamble inputClock, block := (newChain hasPreamble inputClock).block,
    done := [] }

/-- A cache read. -/
def cached {κ α : Type} [DecidableEq κ] (a : κ) (c : List (κ × α)) : Option α :=
  (c.find? fun e => decide (e.1 = a)).map Prod.snd

/-- A cache write. -/
def cache {κ α : Type} [DecidableEq κ] (a : κ) (v : α) (c : List (κ × α)) : List (κ × α) :=
  (a, v) :: c.filter fun e => decide (e.1 ≠ a)

/-- R190: a chip is created holding only the discovered `ChipAddress` value. -/
def newChip (voc : Vocabulary) (value : Word) : Chip :=
  { regs := [(voc.raChipAddress, value)], coreRegs := [], lastCore := none }

/-- R190: `address = ChipAddress[7:0]`, 0 until that register has been read. -/
def chipAddress (voc : Vocabulary) (c : Chip) : Byte :=
  ((cached voc.raChipAddress c.regs).getD 0).extractLsb' 0 8

/-- R190: `coreCount = ChipAddress[15:8]`, 0 until that register has been read. -/
def coreCount (voc : Vocabulary) (c : Chip) : Byte :=
  ((cached voc.raChipAddress c.regs).getD 0).extractLsb' 8 8

/-- R190: a register value that was read into a chip's cache. -/
def cacheReg (reg : Byte) (v : Word) (c : Chip) : Chip := { c with regs := cache reg v c.regs }

/-- R190, R133: a written register value into a chip's cache. The cache is "populated only by explicit
reads", so a write changes the entry of a register that has been read and makes none (log entry 42). -/
def updateReg (reg : Byte) (v : Word) (c : Chip) : Chip :=
  { c with regs := c.regs.map fun e => if e.1 = reg then (reg, v) else e }

/-- R186, R190: a core-register value into a chip's cache. -/
def cacheCore (coreRegId : Nat) (v : BitVec 16) (c : Chip) : Chip :=
  { c with coreRegs := cache coreRegId v c.coreRegs }

/-- R187, R244: the chip remembers which core register it was asked for. -/
def rememberCore (coreRegId : Nat) (c : Chip) : Chip := { c with lastCore := some coreRegId }

/-- R183: `chip.ChipAddress[7:0] <- a`, in the cache. -/
def readdress (voc : Vocabulary) (a : Byte) (c : Chip) : Chip :=
  cacheReg voc.raChipAddress
    (((cached voc.raChipAddress c.regs).getD 0).extractLsb' 8 24 ++ a) c

/-- R190: a change to every chip a command targets: all of them when it is broadcast, else those at
its address (log entry 42). -/
def onTarget (voc : Vocabulary) (b : Bool) (chipAddr : Byte) (f : Chip → Chip) (chips : List Chip) :
    List Chip :=
  chips.map fun c => if b = true ∨ chipAddress voc c = chipAddr then f c else c

/-! ### Sequences (R180) -/

/-- A pseudo-operation: what it answers, and the controller after it. The chain stays what the lines
carried out have made it, on an error too (R190: a chip is never destroyed; log entry 41). -/
abbrev Ctl (α : Type) := Controller → Except ControllerError α × Controller

/-- A pseudo-operation that only answers. -/
def give {α : Type} (v : α) : Ctl α := fun c => (.ok v, c)

/-- A pseudo-operation that only fails. -/
def giveUp {α : Type} (e : ControllerError) : Ctl α := fun c => (.error e, c)

/-- One pseudo-operation after another, up to the first error. -/
def andThen {α β : Type} (x : Ctl α) (f : α → Ctl β) : Ctl β := fun c =>
  match x c with
  | (.ok v, d) => f v d
  | (.error e, d) => (.error e, d)

/-- R190: a change to the controller's own list of chips. -/
def onChips (f : List Chip → List Chip) : Ctl Unit := fun c =>
  (.ok (), { c with chain := { c.chain with chips := f c.chain.chips } })

/-- What the host reads of the block after an operation: its return, an error outcome, or a call that
has not returned. -/
def answerOf (t : State) : Except ControllerError Returned :=
  if t.mode ≠ .idle then .error .blocked
  else match t.returned with
    | .raised o => .error (.block o)
    | v => .ok v

/-- R207, R211: one operation of the host, and what it hands back. -/
def issue (i : Instr) : Ctl Returned := fun c =>
  match exec i c.block with
  | .next t => (answerOf t, { c with block := t, done := c.done ++ [.op i] })
  | .fault _ => (.error .blocked, c)
  | .refused _ => (.error .busy, c)

/-- R64, R180: a line in which the block takes no part. -/
def passLine (l : HostLine) : Ctl Unit := fun c => (.ok (), { c with done := c.done ++ [l] })

/-- R180: `delay(T)`. -/
def settle (t : Nat) : Ctl Unit := passLine (.delay t)

/-- R133, R190: a register write, and the caches of the chips it targets, once it has been sent. -/
def writeRegister (voc : Vocabulary) (b : Bool) (chipAddr reg : Byte) (v : Word) : Ctl Unit :=
  andThen (issue (.writereg b chipAddr reg v)) fun _ =>
    onChips (onTarget voc b chipAddr (updateReg reg v))

/-- One `RECV`, its triple. -/
def receiveTriple : Ctl (Word × Byte × Byte) :=
  andThen (issue .recv) fun
    | .response value chip reg => give (value, chip, reg)
    | .nothing => giveUp .blocked
    | .crc5 _ => giveUp .blocked
    | .crc16 _ => giveUp .blocked
    | .raised o => giveUp (.block o)

/-- R185: the chip at an index; no such index is a `RangeError`, "index/id out of valid bounds" (R209). -/
def chipAt (k : Nat) : Ctl Chip := fun c =>
  match c.chain.chips[k]? with
  | some chip => (.ok chip, c)
  | none => (.error .range, c)

/-- R185, R190: one register of the chip at index `k`: `READREG`, `RECV`, and the value into its cache
under the register asked for. The response's `CHIP` and `REG` are compared with nothing: the spec says
that it is not said (log entry 36). -/
def readRegister (voc : Vocabulary) (k : Nat) (reg : Byte) : Ctl Word :=
  andThen (chipAt k) fun chip =>
    andThen (issue (.readreg false (chipAddress voc chip) reg)) fun _ =>
      andThen receiveTriple fun r =>
        andThen (onChips fun chips => chips.modify k (cacheReg reg r.1)) fun _ => give r.1

/-- R211: one item of a best-effort scan: its failure is recorded and passed over. A transport call
that has not returned is no failure: nothing more can be issued (R246; log entry 40). -/
def bestEffort {α : Type} (x : Ctl α) : Ctl (Option ControllerError) := fun c =>
  match x c with
  | (.ok _, d) => (.ok none, d)
  | (.error .blocked, d) => (.error .blocked, d)
  | (.error .busy, d) => (.error .busy, d)
  | (.error e, d) => (.ok (some e), d)

/-- R211: a best-effort scan over items: the failures it passed over, in order. -/
def scan {α β : Type} (x : α → Ctl β) : List α → Ctl (List (α × ControllerError))
  | [] => give []
  | a :: rest =>
    andThen (bestEffort (x a)) fun failure =>
      andThen (scan x rest) fun failures =>
        give (match failure with
          | none => failures
          | some e => (a, e) :: failures)

/-! ### Enumeration (R181 to R184) -/

/-- R181: the loop of *Discover*, at most `n` `RECV`s. A timeout ends it without error; a mismatched
register address or a nonzero chip address aborts it; any other error propagates. Each chip joins the
chain at once. -/
def discoverLoop (voc : Vocabulary) : Nat → Ctl Unit
  | 0 => giveUp .bound
  | n + 1 => fun c =>
    match receiveTriple c with
    | (.ok (value, chip, reg), d) =>
      if reg ≠ voc.raChipAddress ∨ chip ≠ 0 then (.error .protocolMismatch, d)
      else andThen (onChips (· ++ [newChip voc value])) (fun _ => discoverLoop voc n) d
    | (.error (.block .ioTimeout), d) => (.ok (), d)
    | (.error e, d) => (.error e, d)

/-- R181: *Discover*. -/
def discover (voc : Vocabulary) (n : Nat) : Ctl Unit :=
  andThen (issue (.readreg true 0 voc.raChipAddress)) fun _ => discoverLoop voc n

/-- R182, R237: one `INACTIVE.B` and its settle delay. -/
def inactivate (voc : Vocabulary) : Ctl Unit :=
  andThen (issue (.inactive true voc.inactiveChip voc.inactiveReg)) fun _ =>
    settle voc.times.tInactive

/-- R182: *Reset addressing*: three times. -/
def resetAddressing (voc : Vocabulary) : Ctl Unit :=
  andThen (inactivate voc) fun _ => andThen (inactivate voc) fun _ => inactivate voc

/-- R183: one chip's turn: `SETADDR`, its settle delay, and the chip's cache. -/
def assignOne (voc : Vocabulary) (k : Nat) (a : Byte) : Ctl Unit :=
  andThen (issue (.setaddr false a voc.setaddrReg)) fun _ =>
    andThen (settle voc.times.tSetaddr) fun _ =>
      onChips fun chips => chips.modify k (readdress voc a)

/-- R183: the loop over the chips from index `k` on, `n` of them, at addresses `k * increment` and on. -/
def assignLoop (voc : Vocabulary) (increment : Nat) : Nat → Nat → Ctl Unit
  | 0, _ => give ()
  | n + 1, k =>
    andThen (assignOne voc k (BitVec.ofNat 8 (k * increment))) fun _ =>
      assignLoop voc increment n (k + 1)

/-- R183: *Assign addresses*: both checks before any write, then the chips in discovery order. -/
def assignAddresses (voc : Vocabulary) (increment : Nat) : Ctl Unit := fun c =>
  if increment = 0 then (.error .configuration, c)
  else if c.chain.chips.length * increment > 255 then (.error .configuration, c)
  else assignLoop voc increment c.chain.chips.length 0 c

/-- R184: the writes of the initialisation, register and value, in the order of the groups. -/
def initWrites (voc : Vocabulary) : List (Byte × Word) :=
  (voc.initClockOrdering.map fun w => (voc.raClockOrdering w.1, w.2))
  ++ (voc.initOrderedClock.map fun v => (voc.raOrderedClockEnable, v))
  ++ (voc.initCoreControl.map fun v => (voc.raCoreRegisterControl, v))
  ++ (voc.initTicketMask.map fun v => (voc.raTicketMask, v))
  ++ (voc.initMisc.map fun v => (voc.raMiscControl, v))

/-- R184, R238: broadcast writes in order, the `k`-th followed by `delay(T_INIT[k])`. -/
def initLoop (voc : Vocabulary) : Nat → List (Byte × Word) → Ctl Unit
  | _, [] => give ()
  | k, w :: rest =>
    andThen (writeRegister voc true voc.initChip w.1 w.2) fun _ =>
      andThen (settle (voc.times.tInit k)) fun _ => initLoop voc (k + 1) rest

/-- R184: *Clock and ticket initialisation*. -/
def initialise (voc : Vocabulary) : Ctl Unit := initLoop voc 0 (initWrites voc)

/-- R180: the enumeration reaches its terminal state. -/
def becomeReady : Ctl Unit := fun c =>
  (.ok (), { c with chain := { c.chain with stage := .ready } })

/-- R180, R233: `Init`: the enumeration from `Unconfigured` to `Ready`, steps R181 to R184 in order; on
a chain that is `Ready` it fails with `AlreadyConfiguredError`. When a step fails the chain keeps its
chips and stays `Unconfigured`, and a later `Init` appends behind them (log entry 41). -/
def initChain (voc : Vocabulary) (n increment : Nat) : Ctl Unit := fun c =>
  match c.chain.stage with
  | .ready => (.error .alreadyConfigured, c)
  | .unconfigured =>
    andThen (discover voc n) (fun _ =>
      andThen (resetAddressing voc) fun _ =>
        andThen (assignAddresses voc increment) fun _ =>
          andThen (initialise voc) fun _ => becomeReady) c

/-! ### Registers (R185 to R187) -/

/-- R185: the registers of a list, up to the first error. What was read before an error stays in the
chip's cache; the call answers the error alone (log entry 37). -/
def readEach (voc : Vocabulary) (k : Nat) : List Byte → Ctl Unit
  | [] => give ()
  | reg :: rest => andThen (readRegister voc k reg) fun _ => readEach voc k rest

/-- R185: `readAllRegisters(chipIndex)`. -/
def readAllRegisters (voc : Vocabulary) (k : Nat) : Ctl Unit :=
  andThen (chipAt k) fun _ => readEach voc k voc.registerSet

/-- R185: `readUnknownRegisters(chipIndex)`: an error on one address does not end the scan; it answers
the addresses that failed. -/
def readUnknownRegisters (voc : Vocabulary) (k : Nat) : Ctl (List (Byte × ControllerError)) :=
  andThen (chipAt k) fun _ => scan (readRegister voc k) voc.unknownSet

/-- R186, R187, R244: the request and the response of a core-register read, nothing between them. The
chip remembers the id as soon as it is asked for, and a value that passes goes to its core-register
cache (log entry 42). -/
def requestCore (voc : Vocabulary) (chipAddr : Byte) (coreId coreRegId : Nat) : Ctl (BitVec 16) :=
  andThen (onChips (onTarget voc false chipAddr (rememberCore coreRegId))) fun _ =>
    andThen (writeRegister voc false chipAddr voc.raCoreRegisterControl (voc.ctl coreRegId coreId))
      fun _ => andThen receiveTriple fun r =>
        if r.2.2 ≠ voc.raCoreRegisterValue then giveUp .protocolMismatch
        else if voc.echoedCore r.1 ≠ coreId then giveUp .protocolMismatch
        else andThen (onChips (onTarget voc false chipAddr (cacheCore coreRegId (voc.coreValue r.1))))
          fun _ => give (voc.coreValue r.1)

/-- R186: `readCoreRegister(chipAddr, coreId, coreRegId)`. Where several chips hold the same cached address,
the first in discovery order bounds `coreId` (log entry 50). -/
def readCoreRegister (voc : Vocabulary) (chipAddr : Byte) (coreId coreRegId : Nat) :
    Ctl (BitVec 16) := fun c =>
  match c.chain.chips.find? fun chip => chipAddress voc chip == chipAddr with
  | none => (.error .notFound, c)
  | some chip =>
    if (coreCount voc chip).toNat ≤ coreId then (.error .range, c)
    else requestCore voc chipAddr coreId coreRegId c

/-- R186: `readAllCoreRegisters(chipAddr, coreId)`: single failures are passed over, successes cached. An
unknown chip or a core id out of range is such a failure of each item (log entry 49). -/
def readAllCoreRegisters (voc : Vocabulary) (chipAddr : Byte) (coreId : Nat) :
    Ctl (List (Nat × ControllerError)) :=
  scan (readCoreRegister voc chipAddr coreId) voc.coreRegisterSet

/-! ### PLL (R188) -/

/-- R188: the `uint32` of a quotient. -/
def asUint32 (overflow : Nat → Word) (q : Nat) : Word :=
  if q < 2 ^ 32 then BitVec.ofNat 32 q else overflow q

/-- R188: the frequency a raw PLL parameter register gives; 0 when the PLL is inactive. -/
def pllFromRaw (width : Nat) (overflow : Nat → Word) (p : Word) (inputClockHz : Nat) :
    Except ControllerError Word :=
  let fbdiv := (p.extractLsb' 16 12).toNat
  let refdiv := (p.extractLsb' 8 6).toNat
  let postdiv1 := (p.extractLsb' 4 3).toNat
  let postdiv2 := (p.extractLsb' 0 3).toNat
  if !(p.getLsbD 31 && p.getLsbD 30) then .ok 0
  else if refdiv * postdiv1 * postdiv2 = 0 then .error .arithmetic
  else .ok (asUint32 overflow
    ((inputClockHz * fbdiv) % 2 ^ width / (refdiv * postdiv1 * postdiv2)))

/-- R188: `pllFrequency(pllIndex, inputClockHz)` on a chip's cached register. -/
def pllFrequency (voc : Vocabulary) (c : Chip) (pllIndex inputClockHz : Nat) :
    Except ControllerError Word :=
  if h : pllIndex < 4 then
    pllFromRaw voc.productWidth voc.pllOverflow
      ((cached (voc.raPll ⟨pllIndex, h⟩) c.regs).getD 0) inputClockHz
  else .error .range

/-! ### Baud rate (R189, R239) -/

/-- R189: the threshold above which PLL3 and the fast UART are reprogrammed. -/
def fastBaud (target : Nat) : Bool := decide (target > 3000000)

/-- One bit of a word replaced. -/
def putBit (n : Fin 32) (b : Bool) (w : Word) : Word :=
  if b then w ||| BitVec.twoPow 32 n.val else w &&& ~~~ BitVec.twoPow 32 n.val

/-- The bits of a field replaced, every other bit kept. -/
def putField {n : Nat} (places : Fin n → Fin 32) (v : BitVec n) (w : Word) : Word :=
  (List.finRange n).foldl (fun w k => putBit (places k) (v.getLsbD k.val) w) w

/-- R189: the divider split into its two fields and merged into `MiscControl`, every other bit kept,
and the high-speed bit set above the threshold. Below the threshold that bit keeps its value, and a
divider of more than 9 bits loses those above: the spec is silent on both (log entry 38). -/
def mergeMisc (f : MiscFields) (divider : Nat) (fast : Bool) (misc : Word) : Word :=
  let merged := putField f.high (BitVec.ofNat 4 (divider >>> 5))
    (putField f.low (BitVec.ofNat 5 divider) misc)
  if fast then putBit f.speed true merged else merged

/-- R189: `divider = baseClk / targetBaud`, and the new `MiscControl` value. The rule does not say how the
quotient is rounded; the model truncates (log entry 38). -/
def baudMisc (voc : Vocabulary) (inputClock target : Nat) (misc : Word) : Word :=
  mergeMisc voc.misc ((if fastBaud target then voc.derivedClock else inputClock) / target)
    (fastBaud target) misc

/-- R189: above the threshold, the PLL3 configuration twice and the fast-UART divider once. -/
def programFast (voc : Vocabulary) (target : Nat) : Ctl Unit :=
  if fastBaud target then
    andThen (writeRegister voc voc.pll3Broadcast voc.pll3Chip (voc.raPll 3) voc.pll3Config) fun _ =>
      andThen (writeRegister voc voc.pll3Broadcast voc.pll3Chip (voc.raPll 3) voc.pll3Config) fun _ =>
        writeRegister voc voc.fastUartBroadcast voc.fastUartChip voc.raFastUart voc.fastUartConfig
  else give ()

/-- R189: the cached `MiscControl` of the first chip, read first if not cached; the read compares
nothing of its response (log entries 25, 36). -/
def miscOf (voc : Vocabulary) : Ctl Word :=
  andThen (chipAt 0) fun chip =>
    match cached voc.raMiscControl chip.regs with
    | some v => give v
    | none => readRegister voc 0 voc.raMiscControl

/-- R189: `setBaudrate(targetBaud)`: the range, then the empty chain (log entry 25), the fast lines, and
the merged `MiscControl` broadcast to all chips. -/
def setBaudrate (voc : Vocabulary) (target : Nat) : Ctl Unit := fun c =>
  if target < 115200 ∨ target > 7000000 then (.error .range, c)
  else if c.chain.chips.isEmpty then (.error .noChips, c)
  else andThen (programFast voc target) (fun _ =>
    andThen (miscOf voc) fun misc =>
      writeRegister voc true voc.miscChip voc.raMiscControl
        (baudMisc voc c.chain.inputClock target misc)) c

/-- R239: what the caller does about a change of speed: `setBaudrate` at the old speed, `delay(T_BAUD)`,
the switch of the transport; no `RECV` between. -/
def changeSpeed (voc : Vocabulary) (target : Nat) : Ctl Unit :=
  andThen (setBaudrate voc target) fun _ =>
    andThen (settle voc.times.tBaud) fun _ => passLine (.transportSpeed target)

/-! ### Jobs (R192) -/

/-- R192: the controller's `sendJob` is the one operation `SENDJOB`: no delay, no `RECV`. -/
def submitJob (jobid : Byte) (nonce nbits ntime merkle : Word) (mids : List Midstate) : Ctl Unit :=
  andThen (issue (.sendjob jobid nonce nbits ntime merkle mids)) fun _ => give ()

/-! ### Kinds (R213) -/

/-- R213: the kind of a controller's error as far as the rule names it: the block's own, a transport
call that has not returned, an operation issued meanwhile, and a discovery loop that finds no end. -/
def ControllerError.kind : ControllerError → Option GoneWrong
  | .protocolMismatch => none
  | .range => none
  | .notFound => none
  | .configuration => none
  | .alreadyConfigured => none
  | .arithmetic => none
  | .noChips => none
  | .block o => o.kind
  | .blocked => some .hang
  | .busy => some .refused
  | .bound => some .hang

end Sys2Proof.Machine
end

