-- ==== Sys2Proof/Safety.lean ====
section
/-!
DEFINITION. What holds in every state a run reaches (R40, R28 to R31), and what a run without errors is
(R212, D21).
-/

namespace Sys2Proof.Machine

/-- R212, D21: no operation has ended in an error so far. -/
def State.Clean (s : State) : Prop := s.everFailed = false

/-- R28, R29, R34: the buffers are in canonical form and inside their sizes, the counters inside
theirs, and every byte the counters count has been written. -/
structure State.BufferInv (s : State) : Prop where
  txWf : Memory.wf s.txbuf
  rxWf : Memory.wf s.rxbuf
  txWithin : Memory.within txSize s.txbuf
  rxWithin : Memory.within rxSize s.rxbuf
  txlenLe : s.txlen.toNat ≤ txSize
  rxcntLe : s.rxcnt.toNat ≤ rxSize
  idxLe : s.idx.toNat ≤ txSize
  txWritten : ∃ w, memRead .tx 0 s.txlen.toNat s = .next w
  rxWritten : ∃ w, memRead .rx 0 s.rxcnt.toNat s = .next w

/-- R31, R40, R200, R207, R212: `STATUS` and `STATUS.INFO` record one outcome, the one handed to the host
(for a `DescriptorError` its reason, log entry 33); an error outcome is also in the never-cleared
record. -/
structure State.StatusInv (s : State) : Prop where
  legal : statusLegal s.status s.info = true
  recorded : s.status ≠ 0 → s.everFailed = true
  raised : ∀ o, s.returned = .raised o → s.status = o.code ∧ s.info = o.info ∧ s.status ≠ 0
  ended : (∀ o, s.returned ≠ .raised o) → s.status = 0

/-- R30, R40, R164: a valid result is what the last response in `RXBUF` says, its checksum checked; and
no operation that has not ended leaves one. -/
structure State.ResultInv (s : State) : Prop where
  checked : s.res.valid = true → ∃ body,
    memRead .rx (s.rxcnt.toNat - 7) 7 s = .next body ∧
    (s.rxcnt = 7 ∨ s.rxcnt = 9) ∧ Machine.crc5 body = 0 ∧
    s.res.value = be32At body 0 ∧ s.res.chip = byteAt body 4 ∧ s.res.reg = byteAt body 5
  ended : s.mode ≠ .idle → s.res.valid = false

/-- The invariant of the machine. -/
structure State.Inv (s : State) : Prop where
  buffers : s.BufferInv
  status : s.StatusInv
  result : s.ResultInv

/-! ### What the statements say of an operation's end -/

/-- R57: the bus side's answer to the next `BusWrite` accepts a whole frame of `n` bytes. -/
def State.AcceptsFrame (s : State) (n : Nat) : Prop := ∃ count, s.bus.nextWrite = .ok count ∧ n ≤ count

/-- R246: the transport call an operation makes returns: the write of a send, the read of `RECV`; the
others make none. -/
def State.TransportReturns (i : Instr) (s : State) : Prop :=
  (i.isWire = true → ∀ sent, s.bus.nextWrite ≠ .never sent) ∧
  (i = .recv → ∀ taken, s.bus.nextRead.result ≠ .never taken)

/-- R131, R150: from `s` a send of `frame` has ended OK in `t`. Everything but the descriptor latch and
the CRC registers, of which each operation says its own: the frame is appended to the outbound
stream and stands in `TXBUF`, `RES.VALID` is 0, `STATUS` is `OK`, and the rest is as before, every
byte of `TXBUF` past the frame and all of `RXBUF` included. The model's own: the inbound stream as
before (no echo, log entry 22), the answer used up (entry 9), `IDX` (entry 16), the bytes past the
frame (entry 28). -/
structure SentOk (s t : State) (frame : List Byte) : Prop where
  bus : t.bus = { s.bus.popWrite with outbound := s.bus.outbound ++ frame }
  txbuf : memRead .tx 0 frame.length t = .next frame
  txrest : ∀ a, frame.length ≤ a → Memory.get? a t.txbuf = Memory.get? a s.txbuf
  txlen : t.txlen.toNat = frame.length
  idx : t.idx.toNat = frame.length
  res : t.res = { s.res with valid := false }
  status : t.status = 0
  info : t.info = .nothing
  returned : t.returned = .nothing
  mode : t.mode = .idle
  cfgPre : t.cfgPre = s.cfgPre
  rxbuf : t.rxbuf = s.rxbuf
  rxcnt : t.rxcnt = s.rxcnt
  pending : t.pending = s.pending
  everFailed : t.everFailed = s.everFailed

/-- R207, R213: in `t` the operation has ended in the error outcome `o`. -/
structure EndedIn (t : State) (o : OpOutcome) : Prop where
  status : t.status = o.code
  info : t.info = o.info
  returned : t.returned = .raised o
  mode : t.mode = .idle
  valid : t.res.valid = false
  everFailed : t.everFailed = true
  kind : t.kind = o.kind

/-- R160: what an operation of the block other than a send leaves alone from `s` to `t`, the transport
apart: configuration, descriptors, `TXBUF`, CRC-16 register and requests. -/
structure RecvKeeps (s t : State) : Prop where
  cfgPre : t.cfgPre = s.cfgPre
  crc16 : t.crc16 = s.crc16
  cmd : t.cmd = s.cmd
  job : t.job = s.job
  txbuf : t.txbuf = s.txbuf
  txlen : t.txlen = s.txlen
  pending : t.pending = s.pending
  outbound : t.bus.outbound = s.bus.outbound
  writeScript : t.bus.writeScript = s.bus.writeScript

/-- R205: the outcome of a `RECV` for what its one read gave, in the order of the checks; `none` when
every check passes. -/
def expectedOutcome (pre : Bool) : ReadOutcome → Option OpOutcome
  | .timeout => some .ioTimeout
  | .err e => some (.ioError (.transport e))
  | .never => none
  | .ok w =>
    if w.length ≠ (if pre then 9 else 7) then some (.framingLength w.length)
    else if pre = true ∧ w.take 2 ≠ [0xAA, 0x55] then some .framingPreamble
    else if crc5 (if pre then w.drop 2 else w) ≠ 0 then some .checksumError
    else none

/-- C3, R113(e): the seven one-byte error patterns the CRC-5 does not see. -/
def undetected : List Byte := [0x25, 0x4A, 0x6F, 0x94, 0xB1, 0xDE, 0xFB]

/-- R38: two states that differ in scratch alone: the CRC registers, the descriptors, the buffers and
their counters, and `IDX`. -/
def ScratchOnly (s t : State) : Prop :=
  t = { s with crc5 := t.crc5, crc16 := t.crc16, cmd := t.cmd, job := t.job, txbuf := t.txbuf,
               txlen := t.txlen, rxbuf := t.rxbuf, rxcnt := t.rxcnt, idx := t.idx }

/-- R212: two states that differ in the record of past outcomes alone. -/
def RecordOnly (s t : State) : Prop :=
  t = { s with status := t.status, info := t.info, returned := t.returned,
               everFailed := t.everFailed }

end Sys2Proof.Machine
end

