-- ==== Sys2Proof/Certificates/Slice0/Obligations.lean ====
section
/-!
DEFINITION. The statements for the provers, from the spec's rules; OBLIGATIONS.json lists them.
-/

open Sys2Proof Sys2Proof.Machine

/-! ### Encoding -/

/-- R81, R83, R86, R87 and 95_test_vectors 2.2, 2.3, 2.7: words written out from the spec's encodings
decode to the operations they stand for. -/
def Obligations.DecodesSpecWords : Prop :=
  decode (.command [0x40, 0x05, 0x04, 0x00, 0x03]) = .ok (.setaddr false 0x04 0x00) ∧
  decode (.command [0x50, 0x05, 0x04, 0x00, 0x07]) = .ok (.setaddr true 0x04 0x00) ∧
  decode (.command [0x41, 0x09, 0x0C, 0x3C, 0x80, 0x00, 0x8B, 0x00, 0x12])
    = .ok (.writereg false 0x0C 0x3C 0x80008B00) ∧
  decode (.command [0x52, 0x05, 0x08, 0x18, 0x06]) = .ok (.readreg true 0x08 0x18) ∧
  decode (.command [0x43, 0x05, 0x04, 0x00, 0x18]) = .ok (.inactive false 0x04 0x00) ∧
  decode (.incoming [0x12, 0x34, 0x56, 0x78, 0x04, 0x18, 0x39])
    = .ok (.resp 0x12345678 0x04 0x18 1 0x19)

/-- R94: the encoder followed by the strict frame decoder is the identity on every admitted wire
command, for both values of `CFG.PRE` and every CRC-16 variant. -/
def Obligations.FrameDecodeInvertsEncode : Prop :=
  ∀ (p : Crc16Params) (pre : Bool) (i : Instr), i.isWire = true → i.wf = true →
    decodeFrame p pre (frameOf p pre i) = .ok i

/-- R94: the frame decoder accepts only encoded frames, so it is injective: a byte sequence it accepts is
the encoded frame of the admitted command it answers. That it accepts each of them is
`FrameDecodeInvertsEncode`. -/
def Obligations.FrameDecodeIsExact : Prop :=
  ∀ (p : Crc16Params) (pre : Bool) (w : List Byte) (i : Instr), decodeFrame p pre w = .ok i →
    i.isWire = true ∧ i.wf = true ∧ w = frameOf p pre i

/-- R91: the map of byte 0, all 256 values; and the block produces no byte 0 outside it, whatever the
operands. -/
def Obligations.OpcodeMapComplete : Prop :=
  (∀ op : Byte, commandOf op =
    if op = 0x21 then some .sendjob
    else if op = 0x40 ∨ op = 0x50 then some .setaddr
    else if op = 0x41 ∨ op = 0x51 then some .writereg
    else if op = 0x42 ∨ op = 0x52 then some .readreg
    else if op = 0x43 ∨ op = 0x53 then some .inactive
    else none) ∧
  ∀ (p : Crc16Params) (i : Instr), i.isWire = true → commandOf (byteAt (bodyOf p i) 0) ≠ none

/-- R97: no two of the five rows select the same byte 0. -/
def Obligations.OpcodeRowsDisjoint : Prop :=
  ∀ (op : Byte) (r q : OpRow), r ∈ opRows → q ∈ opRows → r.selects op = true → q.selects op = true →
    r = q

/-- R87: the opcode byte of each command, and the bits of a control command's opcode byte. -/
def Obligations.OpcodeByteCarriesBroadcast : Prop :=
  ∀ (p : Crc16Params) (b : Bool) (chip reg : Byte) (v : Word),
    byteAt (bodyOf p (.setaddr b chip reg)) 0 = (if b then 0x50 else 0x40) ∧
    byteAt (bodyOf p (.writereg b chip reg v)) 0 = (if b then 0x51 else 0x41) ∧
    byteAt (bodyOf p (.readreg b chip reg)) 0 = (if b then 0x52 else 0x42) ∧
    byteAt (bodyOf p (.inactive b chip reg)) 0 = (if b then 0x53 else 0x43) ∧
    (∀ j n d t k ms, byteAt (bodyOf p (.sendjob j n d t k ms)) 0 = 0x21) ∧
    ∀ op ∈ [0x40, 0x41, 0x42, (0x43 : Byte)],
      opByte op b = op ||| (if b then 0x10 else 0x00) ∧ opByte op b = op + (if b then 0x10 else 0x00) ∧
      (opByte op b).getLsbD 4 = b ∧ (opByte op b).extractLsb' 5 3 = 0b010 ∧
      (opByte op b).extractLsb' 0 4 = op.extractLsb' 0 4

/-- R88: `LEN = 4 + len(payload) + t`, with `t = 2` for the job and 1 otherwise: the length byte is the
length of the body, 5, 9, 54, 86, 118 or 150, and never wraps. -/
def Obligations.LengthByteCountsBody : Prop :=
  ∀ (p : Crc16Params) (i : Instr), i.isWire = true → i.wf = true →
    (byteAt (bodyOf p i) 1).toNat = (bodyOf p i).length ∧
    (bodyOf p i).length =
      (match i with
        | .writereg _ _ _ _ => 4 + 4 + 1
        | .sendjob _ _ _ _ _ mids => 4 + (16 + 32 * mids.length) + 2
        | _ => 4 + 0 + 1) ∧
    (bodyOf p i).length ∈ [5, 9, 54, 86, 118, 150]

/-- R136: for every control command and both values of `CFG.PRE`: (a) the frame's length, (b) the length
byte, (c) the broadcast bit and the other opcode bits, (d) two commands with one frame are equal,
(e) the trailer, (f) the whole body has CRC-5 0 exactly when the trailer is 0. -/
def Obligations.ControlFrameShape : Prop :=
  ∀ (op : Byte) (b : Bool) (chip reg : Byte) (payload : List Byte) (pre : Bool),
    op ∈ [0x40, 0x41, 0x42, (0x43 : Byte)] → payload.length = (if op = 0x41 then 4 else 0) →
    let body := encodeCtl op b chip reg payload
    (wireOut pre body).length = 5 + payload.length + 2 * (if pre then 1 else 0) ∧
    (byteAt body 1).toNat = body.length ∧
    ((byteAt body 0).getLsbD 4 = b ∧ byteAt body 0 &&& 0xEF = op) ∧
    (∀ (op' : Byte) (b' : Bool) (chip' reg' : Byte) (payload' : List Byte),
      op' ∈ [0x40, 0x41, 0x42, (0x43 : Byte)] → payload'.length = (if op' = 0x41 then 4 else 0) →
      wireOut pre body = wireOut pre (encodeCtl op' b' chip' reg' payload') →
      op = op' ∧ b = b' ∧ chip = chip' ∧ reg = reg' ∧ payload = payload') ∧
    zext8 (crc5 (body.take (body.length - 1))) = byteAt body (body.length - 1) ∧
    (crc5 body = 0 ↔ byteAt body (body.length - 1) = 0)

/-- R85: for each midstate count the body length, the opcode, length, job id and count bytes, the four
little-endian words, the place of every midstate byte, and the two CRC-16 bytes, high byte first, over
everything before them; with the preamble in front, two bytes more. -/
def Obligations.JobFrameLayout : Prop :=
  ∀ (p : Crc16Params) (j : Byte) (n d t k : Word) (ms : List Midstate) (pre : Bool),
    1 ≤ ms.length → ms.length ≤ 4 →
    let body := bodyOf p (.sendjob j n d t k ms)
    body.length = 22 + 32 * ms.length ∧
    (wireOut pre body).length = 22 + 32 * ms.length + (if pre then 2 else 0) ∧
    byteAt body 0 = 0x21 ∧ (byteAt body 1).toNat = 22 + 32 * ms.length ∧
    byteAt body 2 = j ∧ (byteAt body 3).toNat = ms.length ∧
    le32At body 4 = n ∧ le32At body 8 = d ∧ le32At body 12 = t ∧ le32At body 16 = k ∧
    (∀ (q : Fin ms.length) (i : Fin 32), byteAt body (20 + 32 * q.val + i.val) = ms[q][i]) ∧
    byteAt body (20 + 32 * ms.length)
      = (crc16With p (body.take (20 + 32 * ms.length))).extractLsb' 8 8 ∧
    byteAt body (21 + 32 * ms.length)
      = (crc16With p (body.take (20 + 32 * ms.length))).extractLsb' 0 8

/-! ### Checksums -/

/-- R111: the one-bit step of the CRC-5, as a shift and as its five bits; the fold over a bit sequence;
and the register values from 0x1F over the bits of 0x52. -/
def Obligations.Crc5StepByBits : Prop :=
  (∀ (r : BitVec 5) (b : Bool),
    step5 r b = (if (r.getLsbD 4 ^^ b) = true then ((r <<< 1) &&& 0x1F) ^^^ 0x05 else (r <<< 1) &&& 0x1F) ∧
    (step5 r b).getLsbD 0 = (r.getLsbD 4 ^^ b) ∧ (step5 r b).getLsbD 1 = r.getLsbD 0 ∧
    (step5 r b).getLsbD 2 = ((r.getLsbD 1 ^^ r.getLsbD 4) ^^ b) ∧
    (step5 r b).getLsbD 3 = r.getLsbD 2 ∧ (step5 r b).getLsbD 4 = r.getLsbD 3) ∧
  (∀ (r : BitVec 5) (b : Bool) (q : List Bool),
    crc5Bits r [] = r ∧ crc5Bits r (b :: q) = crc5Bits (step5 r b) q) ∧
  (List.range 8).map (fun k => crc5Bits 0x1F ((bitsOfByte 0x52).take (k + 1)))
    = [0x1B, 0x16, 0x09, 0x17, 0x0B, 0x16, 0x0C, 0x18]

/-- R115: the one-bit step of the CRC-16, and the register values from 0xFFFF over the bits of 0x21. -/
def Obligations.Crc16StepByShift : Prop :=
  (∀ (r : BitVec 16) (b : Bool),
    step16 r b = (if (r.getLsbD 15 ^^ b) = true then ((r <<< 1) &&& 0xFFFF) ^^^ 0x1021
      else (r <<< 1) &&& 0xFFFF)) ∧
  (List.range 8).map (fun k => ((bitsOfByte 0x21).take (k + 1)).foldl step16 0xFFFF)
    = [0xEFDF, 0xCF9F, 0x9F3E, 0x2E5D, 0x5CBA, 0xB974, 0x62C9, 0xD5B3]

/-- R113(a): linearity of the CRC-5 over bit sequences of equal length. -/
def Obligations.Crc5Linear : Prop :=
  ∀ (p q : List Bool) (r1 r2 : BitVec 5), p.length = q.length →
    crc5Bits (r1 ^^^ r2) (List.zipWith xor p q) = crc5Bits r1 p ^^^ crc5Bits r2 q

/-- R113(b): feeding five bits is XOR-ing them in and feeding five zero bits, a bijection on the 32
register values that fixes 0. -/
def Obligations.Crc5AbsorbsFiveBits : Prop :=
  (∀ r c : BitVec 5, crc5Bits r (bitsOf5 c) = crc5Bits (r ^^^ c) (List.replicate 5 false)) ∧
  Function.Bijective (fun r : BitVec 5 => crc5Bits r (List.replicate 5 false)) ∧
  crc5Bits 0 (List.replicate 5 false) = 0

/-- R113(c): after any bit sequence exactly one five-bit value leaves residue 0, the CRC-5 itself. -/
def Obligations.Crc5ResidueUnique : Prop :=
  ∀ (m : List Bool) (c : BitVec 5),
    crc5Bits 0x1F (m ++ bitsOf5 c) = 0 ↔ c = crc5Bits 0x1F m

/-- R113(d): a byte-wide trailer leaves the residue of the register `c` fed `000` and then `c`, which is 0
only for `c = 0`, and different trailers leave different residues. -/
def Obligations.Crc5ByteTrailerResidue : Prop :=
  (∀ s : List Byte, crc5 (s ++ [zext8 (crc5 s)])
    = crc5Bits (crc5 s) ([false, false, false] ++ bitsOf5 (crc5 s))) ∧
  (∀ s : List Byte, crc5 (s ++ [zext8 (crc5 s)]) = 0 ↔ crc5 s = 0) ∧
  Function.Bijective (fun c : BitVec 5 => crc5Bits c ([false, false, false] ++ bitsOf5 c))

/-- R113(e): an error pattern is undetected exactly when its own CRC from 0 is 0; no burst of five bits or
fewer is undetected, so no single bit; within one byte, at any position, the undetected patterns are
exactly the seven of the spec. -/
def Obligations.Crc5UndetectedPatterns : Prop :=
  (∀ (m e : List Bool), m.length = e.length →
    (crc5Bits 0x1F (List.zipWith xor m e) = crc5Bits 0x1F m ↔ crc5Bits 0 e = 0)) ∧
  (∀ (a z : Nat) (q : List Bool), q.length ≤ 5 → true ∈ q →
    crc5Bits 0 (List.replicate a false ++ q ++ List.replicate z false) ≠ 0) ∧
  (∀ (s : List Byte) (k : Nat) (e : Byte), k < s.length →
    (crc5 (s.set k (byteAt s k ^^^ e)) = crc5 s ↔ e = 0 ∨ e ∈ undetected))

/-- R118: the byte-at-a-time forms equal the bit-serial definitions. -/
def Obligations.CrcByteFormsAgree : Prop :=
  (∀ (p : Crc16Params) (s : List Byte), p.refin = false →
    crc16Register p s = s.foldl crc16Byte p.init) ∧
  ∀ s : List Byte, crc5 s = s.foldl crc5Byte 0x1F

/-- R164, R165, R166: for every value, chip, register and each of the eight values of bits 7:5, exactly
one value of bits 4:0 leaves residue 0: the CRC-5 of the 51 bits before them. -/
def Obligations.ResponseChecksumUnique : Prop :=
  ∀ (v : Word) (c g : Byte) (f : BitVec 3) (k : BitVec 5),
    crc5 (respBody v c g f k) = 0 ↔ k = respChecksum v c g f

/-! ### Sends -/

/-- R131, R132: `SETADDR` sends its five-byte body, behind `55 AA` when `CFG.PRE = 1`, and ends OK; its
frame is `SentOk`. The model's own, not these rules': the inbound stream as before (no echo, log entry
22), the answer used up (entry 9), `IDX` at the frame's length (16), `CMD.VAL` kept (17), `CRC5` left at
the trailer's value (R24, entry 26), the bytes past the frame (28). -/
def Obligations.SetaddrSends : Prop :=
  ∀ (b : Bool) (chip reg : Byte) (s : State), s.mode = .idle →
    s.AcceptsFrame (5 + if s.cfgPre then 2 else 0) →
    let head : List Byte := [if b then 0x50 else 0x40, 0x05, chip, reg]
    let frame := (if s.cfgPre then [0x55, 0xAA] else []) ++ head ++ [zext8 (crc5 head)]
    ∃ t, exec (.setaddr b chip reg) s = .next t ∧ SentOk s t frame ∧
      t.cmd = { op := 0x40, b := b, chip := chip, reg := reg, val := s.cmd.val } ∧
      t.crc5 = crc5 head ∧ t.crc16 = s.crc16 ∧ t.job = s.job

/-- R131, R133: `WRITEREG` sends its nine-byte body with the value big-endian, and ends OK. The model's
own: the inbound stream as before (log entry 22), the answer used up (9), `IDX` (16), `CRC5` (R24,
entry 26), the bytes past the frame (28). -/
def Obligations.WriteregSends : Prop :=
  ∀ (b : Bool) (chip reg : Byte) (v : Word) (s : State), s.mode = .idle →
    s.AcceptsFrame (9 + if s.cfgPre then 2 else 0) →
    let head : List Byte :=
      [if b then 0x51 else 0x41, 0x09, chip, reg, v.extractLsb' 24 8, v.extractLsb' 16 8,
       v.extractLsb' 8 8, v.extractLsb' 0 8]
    let frame := (if s.cfgPre then [0x55, 0xAA] else []) ++ head ++ [zext8 (crc5 head)]
    ∃ t, exec (.writereg b chip reg v) s = .next t ∧ SentOk s t frame ∧
      t.cmd = { op := 0x41, b := b, chip := chip, reg := reg, val := v } ∧
      t.crc5 = crc5 head ∧ t.crc16 = s.crc16 ∧ t.job = s.job

/-- R131, R134: `READREG` sends its five-byte body and ends OK; it reads nothing. The model's own: the
inbound stream as before (log entry 22), the answer used up (9), `IDX` (16), `CMD.VAL` (17), `CRC5`
(R24, entry 26), the bytes past the frame (28). -/
def Obligations.ReadregSends : Prop :=
  ∀ (b : Bool) (chip reg : Byte) (s : State), s.mode = .idle →
    s.AcceptsFrame (5 + if s.cfgPre then 2 else 0) →
    let head : List Byte := [if b then 0x52 else 0x42, 0x05, chip, reg]
    let frame := (if s.cfgPre then [0x55, 0xAA] else []) ++ head ++ [zext8 (crc5 head)]
    ∃ t, exec (.readreg b chip reg) s = .next t ∧ SentOk s t frame ∧
      t.cmd = { op := 0x42, b := b, chip := chip, reg := reg, val := s.cmd.val } ∧
      t.crc5 = crc5 head ∧ t.crc16 = s.crc16 ∧ t.job = s.job

/-- R131, R135: `INACTIVE` sends its five-byte body and ends OK. The model's own: the inbound stream as
before (log entry 22), the answer used up (9), `IDX` (16), `CMD.VAL` (17), `CRC5` (R24, entry 26), the
bytes past the frame (28). -/
def Obligations.InactiveSends : Prop :=
  ∀ (b : Bool) (chip reg : Byte) (s : State), s.mode = .idle →
    s.AcceptsFrame (5 + if s.cfgPre then 2 else 0) →
    let head : List Byte := [if b then 0x53 else 0x43, 0x05, chip, reg]
    let frame := (if s.cfgPre then [0x55, 0xAA] else []) ++ head ++ [zext8 (crc5 head)]
    ∃ t, exec (.inactive b chip reg) s = .next t ∧ SentOk s t frame ∧
      t.cmd = { op := 0x43, b := b, chip := chip, reg := reg, val := s.cmd.val } ∧
      t.crc5 = crc5 head ∧ t.crc16 = s.crc16 ∧ t.job = s.job

/-- R150: `SENDJOB` with 1 to 4 midstates sends its body: opcode, length, job id, count, the four words
little-endian, the midstates in order, the CRC-16 high byte first; latches its operands; and ends OK.
The model's own: the inbound stream as before (log entry 22), the answer used up (9), `IDX` (16), the
unused places of `JOB.MID` (17), `CRC16` left at the shift register's value (26), the bytes past the
frame (28). -/
def Obligations.SendjobSends : Prop :=
  ∀ (j : Byte) (n d t k : Word) (ms : List Midstate) (s : State), s.mode = .idle →
    1 ≤ ms.length → ms.length ≤ 4 →
    s.AcceptsFrame (22 + 32 * ms.length + if s.cfgPre then 2 else 0) →
    let head : List Byte :=
      [0x21, BitVec.ofNat 8 (22 + 32 * ms.length), j, BitVec.ofNat 8 ms.length]
        ++ le32 n ++ le32 d ++ le32 t ++ le32 k ++ ms.flatMap Vector.toList
    let frame := (if s.cfgPre then [0x55, 0xAA] else []) ++ head ++ be16 (crc16 head)
    ∃ u, exec (.sendjob j n d t k ms) s = .next u ∧ SentOk s u frame ∧
      (u.job.id = j ∧ u.job.nmid.toNat = ms.length ∧ u.job.nonce = n ∧ u.job.nbits = d ∧
        u.job.ntime = t ∧ u.job.merkle = k) ∧
      (∀ q : Fin 4, u.job.mid[q] = if h : q.val < ms.length then ms[q.val] else s.job.mid[q]) ∧
      u.crc16 = crc16Register Config.crc16 head ∧ u.crc5 = s.crc5 ∧ u.cmd = s.cmd

/-- R94, R131, R150: what a wire command puts on the outbound stream is its encoded frame, and the strict
frame decoder reads the command back from it. -/
def Obligations.SentBytesDecodeToCommand : Prop :=
  ∀ (i : Instr) (s : State), i.isWire = true → i.wf = true → s.mode = .idle →
    s.AcceptsFrame (frameOf Config.crc16 s.cfgPre i).length →
    ∃ t, exec i s = .next t ∧
      t.bus.outbound = s.bus.outbound ++ frameOf Config.crc16 s.cfgPre i ∧
      decodeFrame Config.crc16 s.cfgPre (t.bus.outbound.drop s.bus.outbound.length) = .ok i

/-- R57, R131, R204, R208: a write that fails, or accepts fewer bytes, ends the send in `IoError` with the
transport's error unchanged or the count. The model's own: that the bytes out are the head of the frame
(log entry 13) and that the inbound stream is as before, no echo (entry 22; R208 says that nothing is
removed). -/
def Obligations.SendErrorsAreIoErrors : Prop :=
  ∀ (i : Instr) (s : State), i.isWire = true → i.wf = true → s.mode = .idle →
    (∀ e sent, s.bus.nextWrite = .err e sent →
      ∃ t, exec i s = .next t ∧ EndedIn t (.ioError (.transport e)) ∧ t.bus.inbound = s.bus.inbound ∧
        t.bus.outbound = s.bus.outbound ++ (frameOf Config.crc16 s.cfgPre i).take sent) ∧
    (∀ count, s.bus.nextWrite = .ok count → count < (frameOf Config.crc16 s.cfgPre i).length →
      ∃ t, exec i s = .next t ∧ EndedIn t (.ioError (.shortWrite count)) ∧
        t.bus.inbound = s.bus.inbound ∧
        t.bus.outbound = s.bus.outbound ++ (frameOf Config.crc16 s.cfgPre i).take count)

/-- R153(a), R206: a midstate count outside 1 to 4 ends in `DescriptorError(MidstateCount(n))`: of the
block's state only `STATUS` and `RES.VALID` change and nothing is sent. That `STATUS.INFO` holds
the reason is R200 and R207 against R31's "otherwise nothing" (log entry 33). The fields `returned` and
`everFailed` are the model's own (log entries 12, 11). -/
def Obligations.JobCountOutsideRangeRefused : Prop :=
  ∀ (j : Byte) (n d t k : Word) (ms : List Midstate) (s : State), s.mode = .idle →
    ms.length = 0 ∨ 5 ≤ ms.length →
    exec (.sendjob j n d t k ms) s = .next
      { s with res := { s.res with valid := false }, status := 6,
               info := .reason (.midstateCount ms.length),
               returned := .raised (.descriptorError (.midstateCount ms.length)),
               everFailed := true }

/-- R63(a): the bytes of two sends stand on the outbound stream in the order they were issued, each frame
whole and contiguous. -/
def Obligations.SendsKeepProgramOrder : Prop :=
  ∀ (i j : Instr) (s t u : State), i.isWire = true → j.isWire = true → i.wf = true → j.wf = true →
    s.AcceptsFrame (frameOf Config.crc16 s.cfgPre i).length → exec i s = .next t →
    t.AcceptsFrame (frameOf Config.crc16 s.cfgPre j).length → exec j t = .next u →
    u.bus.outbound = s.bus.outbound ++ frameOf Config.crc16 s.cfgPre i
      ++ frameOf Config.crc16 s.cfgPre j

/-! ### Receiving -/

/-- R160, R161: a response whose checksum passes, at the head of the inbound stream and given whole by the
one read, is delivered: the result latch, the whole frame in `RXBUF`, the status and the value handed
to the host; its bytes and no others leave the stream. The model's own: how arriving bytes join (log
entry 14), the field `returned` (12), `CRC5` left at the residue (R24, entry 26), the bytes of `RXBUF`
past the frame (28). -/
def Obligations.RecvDeliversResponse : Prop :=
  ∀ (s : State) (body rest : List Byte) (count : Nat), s.mode = .idle →
    body.length = 7 → crc5 body = 0 →
    s.bus.inbound ++ s.bus.nextRead.arriving
      = (if s.cfgPre then [0xAA, 0x55] else []) ++ body ++ rest →
    s.bus.nextRead.result = .data count → (7 + if s.cfgPre then 2 else 0) ≤ count →
    ∃ t, exec .recv s = .next t ∧ RecvKeeps s t ∧
      t.res = { value := be32At body 0, chip := byteAt body 4, reg := byteAt body 5, valid := true } ∧
      t.returned = .response (be32At body 0) (byteAt body 4) (byteAt body 5) ∧
      t.status = 0 ∧ t.info = .nothing ∧ t.mode = .idle ∧ t.everFailed = s.everFailed ∧
      t.bus.inbound = rest ∧ t.crc5 = 0 ∧
      t.rxcnt.toNat = 7 + (if s.cfgPre then 2 else 0) ∧
      memRead .rx 0 (7 + if s.cfgPre then 2 else 0) t
        = .next ((if s.cfgPre then [0xAA, 0x55] else []) ++ body) ∧
      (∀ a, (7 + if s.cfgPre then 2 else 0) ≤ a → Memory.get? a t.rxbuf = Memory.get? a s.rxbuf)

/-- R160, R162 to R164, R205, R207: for every answer of the bus side that returns, `RECV` ends in the
outcome of the first check that fails, and in `OK` with a valid result when none does. -/
def Obligations.RecvChecksInOrder : Prop :=
  ∀ s : State, s.mode = .idle →
    (∀ taken, s.bus.nextRead.result ≠ .never taken) → ∃ t, exec .recv s = .next t ∧ RecvKeeps s t ∧
      match expectedOutcome s.cfgPre (busRead (if s.cfgPre then 9 else 7) s.bus).1 with
      | some o => EndedIn t o ∧ t.res = { s.res with valid := false }
      | none => t.status = 0 ∧ t.info = .nothing ∧ t.mode = .idle ∧ t.res.valid = true ∧
          t.returned = .response t.res.value t.res.chip t.res.reg

/-- R58, R60, R208: what a `RECV` removes from the inbound stream, by the bus side's answer: the bytes it
was given, and none on a timeout; what arrived joins the stream behind what was there; nothing is
written to the bus. -/
def Obligations.RecvConsumesWhatItWasGiven : Prop :=
  ∀ s t : State, exec .recv s = .next t →
    t.bus.outbound = s.bus.outbound ∧
    t.bus.inbound = (s.bus.inbound ++ s.bus.nextRead.arriving).drop
      (match s.bus.nextRead.result with
        | .data count => min count (if s.cfgPre then 9 else 7)
        | .err _ dropped => min dropped (if s.cfgPre then 9 else 7)
        | .timeout => 0
        | .never taken => min taken (if s.cfgPre then 9 else 7)) ∧
    (∀ k, t.info = .count k → t.status = 1 →
      k + t.bus.inbound.length = (s.bus.inbound ++ s.bus.nextRead.arriving).length ∨
      ∃ taken, s.bus.nextRead.result = .never taken)

/-- R164 to R167(a): a response built as R166 says, for every value, chip, register and every value of bits
7:5, arrives and is then received as exactly that triple, with and without preamble. -/
def Obligations.ResponseRoundTrip : Prop :=
  ∀ (v : Word) (c g : Byte) (f : BitVec 3) (s : State) (count : Nat), s.mode = .idle →
    s.bus.inbound = [] → s.bus.nextRead.result = .data count → 9 ≤ count →
    ∃ t u, exec (.resp v c g f (respChecksum v c g f)) s = .next t ∧ exec .recv t = .next u ∧
      u.returned = .response v c g ∧ u.status = 0 ∧ readRes u = .next (v, c, g) ∧
      u.bus.inbound = s.bus.nextRead.arriving

/-- R167(b), (c), (d), C3: one body byte of a valid response XOR-ed with a nonzero pattern gives
`ChecksumError`, but for the seven patterns of R113(e), with which `RECV` ends OK. -/
def Obligations.RecvOnOneCorruptedByte : Prop :=
  ∀ (s : State) (body rest : List Byte) (k count : Nat) (e : Byte), s.mode = .idle →
    body.length = 7 → crc5 body = 0 → k < 7 → e ≠ 0 →
    s.bus.inbound = wireIn s.cfgPre (body.set k (byteAt body k ^^^ e)) ++ rest →
    s.bus.nextRead.result = .data count → 9 ≤ count →
    ∃ t, exec .recv s = .next t ∧
      if e ∈ undetected then t.status = 0 ∧ t.res.valid = true else EndedIn t .checksumError

/-- R234: with `CFG.PRE = 0` and a chip that sends `AA 55` first, one `RECV` takes 7 of the 9 bytes, its
value, when the check passes, begins `0xAA55`, and the two left-over bytes head the stream. -/
def Obligations.PreambleMismatchLeavesTwoBytes : Prop :=
  ∀ (s t : State) (body rest : List Byte) (count : Nat), s.cfgPre = false → body.length = 7 →
    s.bus.inbound = [0xAA, 0x55] ++ body ++ rest → s.bus.nextRead = ⟨[], .data count⟩ → 7 ≤ count →
    exec .recv s = .next t →
    t.bus.inbound = body.drop 5 ++ rest ∧
    (t.status = 0 → t.res.value.extractLsb' 16 16 = 0xAA55) ∧ (t.status = 0 ∨ t.status = 3)

/-! ### The other operations -/

/-- R112: `CRC5` loads and advances its register, returns its value, sets `STATUS` to `OK`, and touches
nothing else; it has no exception. -/
def Obligations.Crc5Operation : Prop :=
  ∀ (bytes : List Byte) (s : State), s.mode = .idle →
    exec (.crc5 bytes) s = .next
      { s with crc5 := crc5Bits 0x1F (bitsOf bytes), status := 0, info := .nothing,
               returned := .crc5 (crc5Bits 0x1F (bitsOf bytes)) }

/-- R116: `CRC16` loads `CRC16_INIT`, advances by each byte in the order `CRC16_REFIN` selects, and returns
the register, reversed if `CRC16_REFOUT`, XOR `CRC16_XOROUT`; nothing else changes. -/
def Obligations.Crc16Operation : Prop :=
  ∀ (bytes : List Byte) (s : State), s.mode = .idle →
    let r := (bytes.flatMap fun x =>
      if Config.crc16.refin then (bitsOfByte x).reverse else bitsOfByte x).foldl step16 Config.crc16.init
    exec (.crc16 bytes) s = .next
      { s with crc16 := r, status := 0, info := .nothing,
               returned := .crc16 ((if Config.crc16.refout then r.reverse else r) ^^^ Config.crc16.xorout) }

/-- R140: `CFGPRE p` writes `CFG.PRE` and `STATUS` and nothing else of the block, and sends nothing. -/
def Obligations.CfgpreOperation : Prop :=
  ∀ (p : Bool) (s : State), s.mode = .idle →
    exec (.cfgpre p) s = .next
      { s with cfgPre := p, status := 0, info := .nothing, returned := .nothing }

/-- R66, R140: a `CFGPRE` takes effect for the next operation: a frame sent next carries the preamble
exactly when the operand says so; a `RECV` issued next makes one read of 9 bytes or 7, as the operand
says, and is checked by it. -/
def Obligations.CfgpreTakesEffectNext : Prop :=
  ∀ (p : Bool) (s t : State), exec (.cfgpre p) s = .next t →
    (∀ (i : Instr) (u : State), i.isWire = true → i.wf = true →
      s.AcceptsFrame (frameOf Config.crc16 p i).length → exec i t = .next u →
      u.bus.outbound = s.bus.outbound
        ++ ((if p then [0x55, 0xAA] else []) ++ bodyOf Config.crc16 i)) ∧
    ((∀ taken, s.bus.nextRead.result ≠ .never taken) →
      ∃ u, exec .recv t = .next u ∧
        u.bus.inbound = (busRead (if p then 9 else 7) s.bus).2.inbound ∧
        match expectedOutcome p (busRead (if p then 9 else 7) s.bus).1 with
        | some o => EndedIn u o
        | none => u.status = 0 ∧ u.res.valid = true)

/-- R35, R86, R166, R210 (log entries 18, 19): a response frame arrives at the tail of the inbound stream,
`AA 55` in front when `CFG.PRE = 1`, whatever the block is doing, and changes nothing else. The
reading of the table's row is the model's. -/
def Obligations.ResponseArrives : Prop :=
  ∀ (v : Word) (c g : Byte) (f : BitVec 3) (k : BitVec 5) (s : State),
    exec (.resp v c g f k) s = .next
      { s with bus := { s.bus with inbound := s.bus.inbound ++
          ((if s.cfgPre then [0xAA, 0x55] else []) ++
            [v.extractLsb' 24 8, v.extractLsb' 16 8, v.extractLsb' 8 8, v.extractLsb' 0 8, c, g, f ++ k]) } }

/-! ### The machine -/

/-- R33, R213: an operation of the block is accepted only in `IDLE`, else it is refused; and it returns the
block to `IDLE` whatever its outcome, when the transport call it makes, if it makes one, returns. -/
def Obligations.AcceptedOnlyIdle : Prop :=
  ∀ (i : Instr) (s : State), (∀ v c g f k, i ≠ .resp v c g f k) →
    (s.mode ≠ .idle → exec i s = .refused .operationInProgress ∧
      kindOf (exec i s) = some .refused) ∧
    (s.mode = .idle → s.TransportReturns i → ∃ t, exec i s = .next t ∧ t.mode = .idle)

/-- R246, R213: a transport call that never returns leaves `MODE` at `TX` or `RX` with `STATUS` as it was, and no
further operation of the block can be issued. -/
def Obligations.HungCallBlocksTheBlock : Prop :=
  (∀ (i j : Instr) (s : State) (sent : Nat), i.isWire = true → i.wf = true → s.mode = .idle →
    s.bus.nextWrite = .never sent → (∀ v c g f k, j ≠ .resp v c g f k) →
    ∃ t, exec i s = .next t ∧ t.mode = .tx ∧ t.kind = some .hang ∧ t.status = s.status ∧ t.res.valid = false ∧
      exec j t = .refused .operationInProgress) ∧
  (∀ (j : Instr) (s : State) (taken : Nat), s.mode = .idle →
    s.bus.nextRead.result = .never taken → (∀ v c g f k, j ≠ .resp v c g f k) →
    ∃ t, exec .recv s = .next t ∧ t.mode = .rx ∧ t.kind = some .hang ∧ t.status = s.status ∧ t.res.valid = false ∧
      exec j t = .refused .operationInProgress)

/-- R37: which operation writes which element, for every operation that answers a next state: `CFG.PRE` by
`CFGPRE` alone, the CRC-16 register by `CRC16` and `SENDJOB`, `CMD` by the control sends, `JOB` by
`SENDJOB`, the buffers by the sends and `RECV`, `RES` by the sends (its `VALID` cleared) and `RECV`. The
CRC-5 register is `Crc5RegisterWriters`. Beside the table, the model's own: a send leaves the inbound
stream alone (no echo, log entry 22), only `RECV` uses up the read script (entry 9), and the requests
are written by none (entry 1). -/
def Obligations.ElementsWrittenByTable : Prop :=
  ∀ (i : Instr) (s t : State), exec i s = .next t →
    ((∀ p, i ≠ .cfgpre p) → t.cfgPre = s.cfgPre) ∧
    ((∀ w, i ≠ .crc16 w) → (∀ j n d m k ms, i ≠ .sendjob j n d m k ms) → t.crc16 = s.crc16) ∧
    ((∀ j n d m k ms, i ≠ .sendjob j n d m k ms) → t.job = s.job) ∧
    (∀ j n d m k ms, i = .sendjob j n d m k ms → t.cmd = s.cmd) ∧
    (i.isWire = false → t.cmd = s.cmd ∧ t.txbuf = s.txbuf ∧ t.txlen = s.txlen) ∧
    (i ≠ .recv → t.rxbuf = s.rxbuf ∧ t.rxcnt = s.rxcnt ∧ t.res.value = s.res.value ∧
      t.res.chip = s.res.chip ∧ t.res.reg = s.res.reg ∧ t.bus.readScript = s.bus.readScript) ∧
    (i.isWire = true → t.res.valid = false ∧ t.bus.inbound = s.bus.inbound) ∧
    (i.isWire = false → i ≠ .recv → t.res = s.res ∧ t.idx = s.idx ∧ t.mode = s.mode) ∧
    t.pending = s.pending

/-- R24, R37: the CRC-5 register is written by `CRC5`, the control sends and `RECV`, and by no job, no
CRC-16, no configuration and no arrival. -/
def Obligations.Crc5RegisterWriters : Prop :=
  ∀ (i : Instr) (s t : State), exec i s = .next t → t.crc5 ≠ s.crc5 →
    (∃ w, i = .crc5 w) ∨ i = .recv ∨ (∃ b c g, i = .setaddr b c g) ∨
    (∃ b c g v, i = .writereg b c g v) ∨ (∃ b c g, i = .readreg b c g) ∨ ∃ b c g, i = .inactive b c g

/-- R57, R60, R171: the outbound stream is append-only: over any step what was sent stays, and what a step
adds is the head of the frame of the wire command that stood at the head of the port. That a partial
write puts out the head of the frame is the model's reading (log entry 13), the port its choice
(entry 1). -/
def Obligations.OutboundOnlyGrows : Prop :=
  ∀ s t : State, step s = .next t →
    t.bus.outbound = s.bus.outbound ∨
    ∃ r rest i n, s.pending = r :: rest ∧ decode r = .ok i ∧ i.isWire = true ∧ i.wf = true ∧
      t.bus.outbound = s.bus.outbound ++ (frameOf Config.crc16 s.cfgPre i).take n

/-- R23, R140: only a `CFGPRE` request changes `CFG.PRE`, to its operand. -/
def Obligations.OnlyCfgpreChangesPre : Prop :=
  ∀ s t : State, step s = .next t → t.cfgPre ≠ s.cfgPre →
    ∃ rest, s.pending = .cfgpre t.cfgPre :: rest

/-- R31, R212: no operation reads the record of past outcomes: from two states that differ in it alone,
every operation answers next states that differ in it alone. -/
def Obligations.RecordIsNeverRead : Prop :=
  ∀ (i : Instr) (s s' t : State), RecordOnly s s' → exec i s = .next t →
    ∃ t', exec i s' = .next t' ∧ RecordOnly t t'

/-- R38: scratch is never read before it is written: from two states that differ in scratch alone, every
operation answers next states that differ in scratch alone. -/
def Obligations.ScratchIsNeverRead : Prop :=
  ∀ (i : Instr) (s s' t : State), ScratchOnly s s' → exec i s = .next t →
    ∃ t', exec i s' = .next t' ∧ ScratchOnly t t'

/-- R30, R40, C8: after any wire command, refused, failed or sent, no result is readable. -/
def Obligations.NoResultAfterSend : Prop :=
  ∀ (i : Instr) (s t : State), i.isWire = true → exec i s = .next t →
    readRes t = .refused .resultNotValid

/-- R30: a read of the result latch gives its three fields when `RES.VALID = 1` and is refused when it is
0. -/
def Obligations.ResultReadNeedsValid : Prop :=
  ∀ s : State,
    (s.res.valid = true → readRes s = .next (s.res.value, s.res.chip, s.res.reg)) ∧
    (s.res.valid = false → readRes s = .refused .resultNotValid)

/-- R12, R95: when the request at the head of the port decodes to an operation, a step is that operation
with the request taken from the port. -/
def Obligations.StepRunsDecodedRequest : Prop :=
  ∀ (s : State) (r : Request) (rest : List Request) (i : Instr),
    s.pending = r :: rest → decode r = .ok i → step s = exec i { s with pending := rest }

/-- R21: with no operation requested the block changes nothing. -/
def Obligations.IdleStepChangesNothing : Prop :=
  ∀ s : State, s.pending = [] → step s = .next s

/-- R92(a), R131, R206: a command image that is no admitted form (0x31, another payload size) ends the step
in `DescriptorError`; nothing is sent and of the block's state only `STATUS` and `RES.VALID` change.
Opcode bytes outside the map and images of no whole form are answered the same way by the model's
choice (log entries 2, 20). That `STATUS.INFO` holds the reason is R200 and R207 against R31's
"otherwise nothing" (entry 33); the order of the reasons where two hold is entry 48; `returned`
and `everFailed` are the model's own (entries 12, 11). -/
def Obligations.RefusedFormsRaiseDescriptorError : Prop :=
  ∀ (s : State) (w : List Byte) (rest : List Request) (why : DescriptorReason), s.mode = .idle →
    s.pending = .command w :: rest →
    decode (.command w) = .error (.descriptor why) →
    step s = .next
      { s with pending := rest, res := { s.res with valid := false }, status := 6,
               info := .reason why, returned := .raised (.descriptorError why), everFailed := true }

/-- R84, R92(a): which control images are refused for their payload size: those of another length than the
format's. -/
def Obligations.PayloadSizeDecides : Prop :=
  ∀ (op : Byte) (t : List Byte), op ∈ [0x40, 0x50, 0x42, 0x52, 0x43, 0x53, 0x41, (0x51 : Byte)] →
    4 ≤ t.length →
    ((∃ i, decode (.command (op :: t)) = .ok i) ↔
      t.length - 4 = if op = 0x41 ∨ op = 0x51 then 4 else 0) ∧
    (t.length - 4 ≠ (if op = 0x41 ∨ op = 0x51 then 4 else 0) →
      decode (.command (op :: t)) = .error (.descriptor (.payloadSize (t.length - 4))))

/-- R28, R29, R34, R50: every step keeps the buffers in canonical form and inside their sizes, the
counters inside theirs, and every counted byte written. -/
def Obligations.BufferInvKept : Prop :=
  ∀ s t : State, s.BufferInv → step s = .next t → t.BufferInv

/-- R31, R40, R200, R207, R212: every step keeps `STATUS` and `STATUS.INFO` the record of one outcome, the
one handed to the host, with every error in the never-cleared record. What a `DescriptorError`
records is its reason, R200 and R207 against R31's "otherwise nothing" (log entry 33); the never-cleared
record and the value handed over are the model's own (entries 11, 12). -/
def Obligations.StatusInvKept : Prop :=
  ∀ s t : State, s.StatusInv → step s = .next t → t.StatusInv

/-- R30, R40, R164, R208: every step keeps it true that a readable result is what the response in `RXBUF`
says, its checksum passed. -/
def Obligations.ResultInvKept : Prop :=
  ∀ s t : State, s.ResultInv → step s = .next t → t.ResultInv

/-- R39, R40: the invariants hold after reset. -/
def Obligations.InvAtReset : Prop := State.reset.Inv

/-- R39, R230, R37: what reset leaves, as far as the spec gives it; and reset of a running machine writes
these elements and the model's own `returned` alone, so that the rest of the block (log entry 29), the
transport, the requests to come and the never-cleared record stay. -/
def Obligations.ResetValues : Prop :=
  (State.reset.mode = .idle ∧ State.reset.idx = 0 ∧ State.reset.status = 0 ∧
    State.reset.info = .nothing ∧ State.reset.res.valid = false ∧
    State.reset.cfgPre = Config.hasPreamble) ∧
  ∀ s : State, resetBlock s =
    { s with mode := .idle, idx := 0, status := 0, info := .nothing,
             res := { s.res with valid := false }, cfgPre := Config.hasPreamble,
             returned := .nothing }

/-! ### The controller's pseudo-operations -/

/-- R183: *Assign addresses* fails before any write when the increment is 0 or count times increment is
above 255. Otherwise what was done is a unicast `SETADDR` and its delay for each of the first `m` chips,
in order, and those chips have the cached address `k * increment`. When all goes well that is every
chip; when a `SETADDR` fails it is the chips before it, the failed one was done last if it was
accepted, and the rest are as they were. The addresses are pairwise different. That the bound check
comes before any write is the spec's reading; that the chips done so far keep their addresses after a
failure is the model's choice (log entry 41), and so is the record of what was done (entry 45). -/
def Obligations.AssignAddressesLines : Prop :=
  ∀ (voc : Vocabulary) (increment : Nat) (c : Controller),
    (increment = 0 ∨ 255 < c.chain.chips.length * increment →
      assignAddresses voc increment c = (.error .configuration, c)) ∧
    (increment ≠ 0 → c.chain.chips.length * increment ≤ 255 →
      (∃ m failed, m ≤ c.chain.chips.length ∧
        (assignAddresses voc increment c).2.chain.chips = c.chain.chips.mapIdx (fun k chip =>
          if k < m then readdress voc (BitVec.ofNat 8 (k * increment)) chip else chip) ∧
        (assignAddresses voc increment c).2.done = c.done ++
          ((List.range m).flatMap fun k =>
            [.op (.setaddr false (BitVec.ofNat 8 (k * increment)) voc.setaddrReg),
             .delay voc.times.tSetaddr]) ++ failed ∧
        ((assignAddresses voc increment c).1 = .ok () → m = c.chain.chips.length ∧ failed = []) ∧
        (∀ e, (assignAddresses voc increment c).1 = .error e → m < c.chain.chips.length ∧
          (failed = [] ∨
            failed = [.op (.setaddr false (BitVec.ofNat 8 (m * increment)) voc.setaddrReg)]))) ∧
      (∀ a b, a < c.chain.chips.length → b < c.chain.chips.length →
        BitVec.ofNat 8 (a * increment) = BitVec.ofNat 8 (b * increment) → a = b)) ∧
    (∀ (a : Byte) (chip : Chip), chipAddress voc (readdress voc a chip) = a)

/-- R188 and source example S4: an unlocked or disabled PLL gives 0, a zero divider product an
`ArithmeticError`, otherwise the truncating quotient of the product in the given width, where that is a
`uint32`; a larger quotient gives a value the spec does not state (log entry 43). -/
def Obligations.PllFrequencyCases : Prop :=
  ∀ (width : Nat) (overflow : Nat → Word) (p : Word) (f : Nat),
    (p.getLsbD 31 = false ∨ p.getLsbD 30 = false → pllFromRaw width overflow p f = .ok 0) ∧
    (p.getLsbD 31 = true → p.getLsbD 30 = true →
      let div := (p.extractLsb' 8 6).toNat * (p.extractLsb' 4 3).toNat * (p.extractLsb' 0 3).toNat
      (div = 0 → pllFromRaw width overflow p f = .error .arithmetic) ∧
      (div ≠ 0 → ∃ v, pllFromRaw width overflow p f = .ok v ∧
        ((f * (p.extractLsb' 16 12).toNat) % 2 ^ width / div < 2 ^ 32 →
          v.toNat = (f * (p.extractLsb' 16 12).toNat) % 2 ^ width / div))) ∧
    (32 ≤ width → pllFromRaw width overflow 0xC0700111 25000000 = .ok 2800000000)

/-- R181: one turn of the discovery loop: a response with the register address asked for and chip address
0 appends a chip, another response aborts as a protocol violation, a timeout ends the loop without
error, any other error propagates; and the chips appended before stay in the chain in every case. -/
def Obligations.DiscoveryTurn : Prop :=
  ∀ (voc : Vocabulary) (n : Nat) (c d : Controller),
    (∀ v g, receiveTriple c = (.ok (v, 0, g), d) → g = voc.raChipAddress →
      discoverLoop voc (n + 1) c = discoverLoop voc n
        { d with chain := { d.chain with chips := d.chain.chips ++ [newChip voc v] } }) ∧
    (∀ v a g, receiveTriple c = (.ok (v, a, g), d) → g ≠ voc.raChipAddress ∨ a ≠ 0 →
      discoverLoop voc (n + 1) c = (.error .protocolMismatch, d)) ∧
    (receiveTriple c = (.error (.block .ioTimeout), d) →
      discoverLoop voc (n + 1) c = (.ok (), d)) ∧
    (∀ e, receiveTriple c = (.error e, d) → e ≠ .block .ioTimeout →
      discoverLoop voc (n + 1) c = (.error e, d)) ∧
    (receiveTriple c).2.chain = c.chain
end

