-- ==== Sys2Proof/Laws/Buffers.lean ====
section
/-!
SUPPORT. The frame buffers (R28, R29, R50): every operation keeps the canonical form and the size, and a
read after a write gives what was written.
-/

namespace Sys2Proof.Machine

/-! ### The canonical form is kept -/

theorem Memory.put_mem {a : Nat} {v : Byte} {m : Memory} {c : Host.Cell}
    (h : c ∈ Memory.put a v m) : c = (a, v) ∨ c ∈ m := by
  induction m with
  | nil => simpa [Memory.put] using h
  | cons d m ih =>
    simp only [Memory.put] at h
    split at h
    · simpa using h
    · split at h
      · rcases List.mem_cons.mp h with h | h
        · exact .inl h
        · exact .inr (List.mem_cons_of_mem _ h)
      · rcases List.mem_cons.mp h with h | h
        · exact .inr (h ▸ List.mem_cons_self)
        · exact (ih h).imp_right (List.mem_cons_of_mem _)

theorem Memory.put_wf {m : Memory} (a : Nat) (v : Byte) (h : Memory.wf m) :
    Memory.wf (Memory.put a v m) := by
  induction m with
  | nil => simp [Memory.put]
  | cons d m ih =>
    obtain ⟨hd, hm⟩ := List.pairwise_cons.mp h
    simp only [Memory.put]
    split
    next hlt =>
      refine List.pairwise_cons.mpr ⟨fun c hc => ?_, h⟩
      rcases List.mem_cons.mp hc with rfl | hc
      · exact hlt
      · exact Nat.lt_trans hlt (hd c hc)
    next hge =>
      split
      next heq => exact List.pairwise_cons.mpr ⟨fun c hc => heq ▸ hd c hc, hm⟩
      next hne =>
        refine List.pairwise_cons.mpr ⟨fun c hc => ?_, ih hm⟩
        rcases Memory.put_mem hc with rfl | hc
        · simp only; omega
        · exact hd c hc

theorem Memory.put_within {size a : Nat} {m : Memory} (v : Byte) (ha : a < size)
    (h : Memory.within size m) : Memory.within size (Memory.put a v m) := fun c hc => by
  rcases Memory.put_mem hc with rfl | hc
  · exact ha
  · exact h c hc

theorem Memory.write_wf (size : Nat) (vs : List Byte) (a : Nat) {m : Memory} (h : Memory.wf m) :
    Memory.wf (Memory.write size a vs m) := by
  induction vs generalizing a m with
  | nil => exact h
  | cons v vs ih =>
    simp only [Memory.write]
    split
    · exact ih _ (Memory.put_wf a v h)
    · exact ih _ h

theorem Memory.write_within (size : Nat) (vs : List Byte) (a : Nat) {m : Memory}
    (h : Memory.within size m) : Memory.within size (Memory.write size a vs m) := by
  induction vs generalizing a m with
  | nil => exact h
  | cons v vs ih =>
    simp only [Memory.write]
    split
    · exact ih _ (Memory.put_within v ‹_› h)
    · exact ih _ h

/-- R39: both buffers are in canonical form after reset. -/
theorem reset_buffers_wf : Memory.wf State.reset.txbuf ∧ Memory.wf State.reset.rxbuf :=
  ⟨List.Pairwise.nil, List.Pairwise.nil⟩

/-! ### Reading back -/

@[simp] theorem Memory.get?_put_self (a : Nat) (v : Byte) (m : Memory) :
    Memory.get? a (Memory.put a v m) = some v := by
  induction m with
  | nil => simp [Memory.put, Memory.get?]
  | cons d m ih =>
    simp only [Memory.put]
    split
    · simp [Memory.get?]
    · split
      · simp [Memory.get?]
      · simp [Memory.get?, *]

theorem Memory.get?_put_ne {a b : Nat} (v : Byte) (m : Memory) (h : b ≠ a) :
    Memory.get? b (Memory.put a v m) = Memory.get? b m := by
  induction m with
  | nil => simp [Memory.put, Memory.get?, h]
  | cons d m ih =>
    simp only [Memory.put]
    split
    · simp [Memory.get?, h]
    · split
      next heq => simp [Memory.get?, ← heq, h]
      next => simp [Memory.get?, ih]

/-- A write leaves every index before it alone. -/
theorem Memory.get?_write_before {size : Nat} (vs : List Byte) {a b : Nat} (m : Memory)
    (h : b < a) : Memory.get? b (Memory.write size a vs m) = Memory.get? b m := by
  induction vs generalizing a m with
  | nil => rfl
  | cons v vs ih =>
    simp only [Memory.write]
    rw [ih _ (by omega)]
    split
    · exact Memory.get?_put_ne v m (by omega)
    · rfl

/-- A write leaves every index after it alone. -/
theorem Memory.get?_write_after {size : Nat} (vs : List Byte) {a b : Nat} (m : Memory)
    (h : a + vs.length ≤ b) : Memory.get? b (Memory.write size a vs m) = Memory.get? b m := by
  induction vs generalizing a m with
  | nil => rfl
  | cons v vs ih =>
    simp only [List.length_cons] at h
    simp only [Memory.write]
    rw [ih _ (by omega)]
    split
    · exact Memory.get?_put_ne v m (by omega)
    · rfl

/-- A write inside the buffer puts each byte at its index. -/
theorem Memory.get?_write {size : Nat} (vs : List Byte) {a : Nat} (m : Memory) (k : Nat)
    (hk : k < vs.length) (h : a + vs.length ≤ size) :
    Memory.get? (a + k) (Memory.write size a vs m) = some vs[k] := by
  induction vs generalizing a m k with
  | nil => simp at hk
  | cons v vs ih =>
    simp only [List.length_cons] at h hk
    simp only [Memory.write, if_pos (show a < size by omega)]
    cases k with
    | zero =>
      rw [Nat.add_zero, Memory.get?_write_before _ _ (Nat.lt_succ_self a)]
      simp
    | succ k =>
      rw [show a + (k + 1) = a + 1 + k by omega, ih _ k (by omega) (by omega)]
      simp

/-- A read answers exactly when every byte it asks for has been written. -/
theorem Memory.read_eq {size : Nat} {m : Memory} (vs : List Byte) {a : Nat}
    (hs : a + vs.length ≤ size)
    (h : ∀ k (hk : k < vs.length), Memory.get? (a + k) m = some vs[k]) :
    Memory.read size m a vs.length = .next vs := by
  induction vs generalizing a with
  | nil => rfl
  | cons v vs ih =>
    simp only [List.length_cons] at hs h ⊢
    have h0 := h 0 (by omega)
    rw [Nat.add_zero] at h0
    rw [Memory.read, if_pos (by omega), h0]
    simp only [List.getElem_cons_zero]
    rw [ih (a := a + 1) (by omega) fun k hk => ?_]
    have := h (k + 1) (by omega)
    rw [show a + (k + 1) = a + 1 + k by omega] at this
    simpa using this

/-- R11: `MemRead` of what `MemWrite` has just stored is what was stored, wherever inside the stored
bytes the read begins and ends. -/
theorem Memory.read_write {size : Nat} (vs : List Byte) {a : Nat} (m : Memory) (k n : Nat)
    (hn : k + n ≤ vs.length) (h : a + vs.length ≤ size) :
    Memory.read size (Memory.write size a vs m) (a + k) n = .next ((vs.drop k).take n) := by
  have hl : ((vs.drop k).take n).length = n := by simp; omega
  rw [show Memory.read size (Memory.write size a vs m) (a + k) n
    = Memory.read size (Memory.write size a vs m) (a + k) ((vs.drop k).take n).length by rw [hl]]
  refine Memory.read_eq _ (by omega) fun j hj => ?_
  rw [Nat.add_assoc, Memory.get?_write _ _ _ (by omega) h]
  simp

/-- R28, R131: `TXBUF` holds the frame that was stored. -/
theorem memRead_storeTx (frame : List Byte) (s : State) (h : frame.length ≤ txSize) :
    memRead .tx 0 frame.length (storeTx frame s) = .next frame := by
  have := Memory.read_write (size := txSize) frame s.txbuf 0 frame.length (a := 0)
    (by omega) (by omega)
  simpa [memRead, storeTx] using this

/-- R29, R160: `RXBUF` holds the bytes that were stored. -/
theorem memRead_storeRx (w : List Byte) (s : State) (k n : Nat) (hn : k + n ≤ w.length)
    (h : w.length ≤ rxSize) : memRead .rx k n (storeRx w s) = .next ((w.drop k).take n) := by
  have := Memory.read_write (size := rxSize) w s.rxbuf k n (a := 0) hn (by omega)
  simpa [memRead, storeRx] using this

/-- R171: a read outside the buffer faults. -/
theorem Memory.read_outside {size : Nat} (m : Memory) {a n : Nat} (hn : 0 < n) (h : size ≤ a) :
    Memory.read size m a n = .fault (.noSuchIndex a) := by
  cases n with
  | zero => omega
  | succ n => rw [Memory.read, if_neg (by omega)]

end Sys2Proof.Machine
end

