-- ==== Sys2Proof/Laws/Controller.lean ====
section
/-!
SUPPORT. What the controller's shared sequences can do (R180 to R190), said once: how a sequence goes on,
what one operation of the host leaves alone, and the turns of the loops.
-/

namespace Sys2Proof.Machine

/-! ### Sequences -/

/-- A sequence goes on with what its first part answered. -/
theorem andThen_ok {α β : Type} {x : Ctl α} {f : α → Ctl β} {c d : Controller} {v : α}
    (h : x c = (.ok v, d)) : andThen x f c = f v d := by simp [andThen, h]

/-- A sequence ends with the first error. -/
theorem andThen_error {α β : Type} {x : Ctl α} {f : α → Ctl β} {c d : Controller}
    {e : ControllerError} (h : x c = (.error e, d)) : andThen x f c = (.error e, d) := by
  simp [andThen, h]

@[simp] theorem give_eq {α : Type} (v : α) (c : Controller) : give v c = (.ok v, c) := rfl

@[simp] theorem giveUp_eq {α : Type} (e : ControllerError) (c : Controller) :
    (giveUp e : Ctl α) c = (.error e, c) := rfl

@[simp] theorem settle_eq (t : Nat) (c : Controller) :
    settle t c = (.ok (), { c with done := c.done ++ [.delay t] }) := rfl

@[simp] theorem onChips_eq (f : List Chip → List Chip) (c : Controller) :
    onChips f c = (.ok (), { c with chain := { c.chain with chips := f c.chain.chips } }) := rfl

/-! ### One operation of the host -/

/-- R190: the block's operations change nothing of the chain. -/
@[simp] theorem issue_chain (i : Instr) (c : Controller) : (issue i c).2.chain = c.chain := by
  unfold issue; split <;> rfl

/-- R207: an operation that hands a value back has been carried out, and the block is idle. -/
theorem issue_ok {i : Instr} {c d : Controller} {v : Returned} (h : issue i c = (.ok v, d)) :
    exec i c.block = .next d.block ∧ d.block.mode = .idle ∧ d.block.returned = v ∧
      d.chain = c.chain ∧ d.done = c.done ++ [.op i] := by
  unfold issue at h
  split at h
  next t ht =>
    obtain ⟨ha, rfl⟩ := Prod.mk.inj h
    unfold answerOf at ha
    split at ha
    · cases ha
    next hm =>
      refine ⟨ht, of_not_not hm, ?_, rfl, rfl⟩
      split at ha
      · cases ha
      · exact (Except.ok.inj ha)
  · cases (Prod.mk.inj h).1
  · cases (Prod.mk.inj h).1

@[simp] theorem receiveTriple_chain (c : Controller) : (receiveTriple c).2.chain = c.chain := by
  have h := issue_chain .recv c
  generalize hi : issue .recv c = r at h
  obtain ⟨r, d⟩ := r
  cases r with
  | error e => rw [receiveTriple, andThen_error hi]; exact h
  | ok v => rw [receiveTriple, andThen_ok hi]; cases v <;> exact h

/-! ### Caches (R190) -/

/-- A write populates no cache: a chip's cached registers are those it had. -/
@[simp] theorem updateReg_keys (reg : Byte) (v : Word) (c : Chip) :
    (updateReg reg v c).regs.map Prod.fst = c.regs.map Prod.fst := by
  simp only [updateReg, List.map_map]
  refine List.map_congr_left fun e _ => ?_
  by_cases h : e.1 = reg <;> simp [h]

@[simp] theorem updateReg_coreRegs (reg : Byte) (v : Word) (c : Chip) :
    (updateReg reg v c).coreRegs = c.coreRegs := rfl

@[simp] theorem updateReg_lastCore (reg : Byte) (v : Word) (c : Chip) :
    (updateReg reg v c).lastCore = c.lastCore := rfl

/-- What a cached register reads as after a write: the written value where it was cached. -/
theorem cached_updateReg (reg a : Byte) (v : Word) (c : Chip) :
    cached a (updateReg reg v c).regs
      = if a = reg then (cached a c.regs).map fun _ => v else cached a c.regs := by
  obtain ⟨regs, _, _⟩ := c
  simp only [updateReg, cached]
  induction regs with
  | nil => simp
  | cons e rest ih =>
    have hk : (if e.1 = reg then (reg, v) else e).1 = e.1 := by
      by_cases h : e.1 = reg <;> simp [h]
    by_cases he : e.1 = a
    · subst he
      by_cases hr : e.1 = reg <;> simp [hr]
    · simp only [List.map_cons, List.find?_cons, hk, he, decide_false]
      exact ih

/-! ### The loops -/

/-- R207: an operation that hands back no value was done, or was not accepted. -/
theorem issue_done (i : Instr) (c : Controller) :
    (issue i c).2.done = c.done ++ [.op i] ∨ (issue i c).2.done = c.done := by
  unfold issue; split
  · exact .inl rfl
  · exact .inr rfl
  · exact .inr rfl

/-- R183: one chip's turn either does the `SETADDR`, its delay and the cache, or leaves the chips, the
`SETADDR` done or not accepted. -/
theorem assignOne_cases (voc : Vocabulary) (k : Nat) (a : Byte) (c : Controller) :
    ((assignOne voc k a c).1 = .ok () ∧
      (assignOne voc k a c).2.chain = { c.chain with
        chips := c.chain.chips.modify k (readdress voc a) } ∧
      (assignOne voc k a c).2.done
        = c.done ++ [.op (.setaddr false a voc.setaddrReg), .delay voc.times.tSetaddr]) ∨
    ((∃ e, (assignOne voc k a c).1 = .error e) ∧ (assignOne voc k a c).2.chain = c.chain ∧
      ((assignOne voc k a c).2.done = c.done ++ [.op (.setaddr false a voc.setaddrReg)] ∨
        (assignOne voc k a c).2.done = c.done)) := by
  generalize hi : issue (.setaddr false a voc.setaddrReg) c = r
  obtain ⟨r, d⟩ := r
  cases r with
  | error e =>
    have h := issue_chain (.setaddr false a voc.setaddrReg) c
    have hd := issue_done (.setaddr false a voc.setaddrReg) c
    rw [hi] at h hd
    rw [assignOne, andThen_error hi]
    exact .inr ⟨⟨e, rfl⟩, h, hd⟩
  | ok v =>
    obtain ⟨_, _, _, hc, hd⟩ := issue_ok hi
    refine .inl ?_
    rw [assignOne, andThen_ok hi, andThen_ok (settle_eq _ d), onChips_eq]
    exact ⟨rfl, by rw [hc], by simp [hd]⟩

/-- R211: an item of a best-effort scan fails only when nothing more can be issued. -/
theorem bestEffort_error {α : Type} {x : Ctl α} {c d : Controller} {e : ControllerError}
    (h : bestEffort x c = (.error e, d)) : e = .blocked ∨ e = .busy := by
  unfold bestEffort at h
  split at h
  · cases (Prod.mk.inj h).1
  · exact .inl (Except.error.inj (Prod.mk.inj h).1).symm
  · exact .inr (Except.error.inj (Prod.mk.inj h).1).symm
  · cases (Prod.mk.inj h).1

/-- The low byte of a word put together from 24 bits and a byte. -/
theorem low_byte (x : BitVec 24) (a : Byte) : (x ++ a).extractLsb' 0 8 = a := by
  refine BitVec.eq_of_getLsbD_eq fun i hi => ?_
  rw [BitVec.getLsbD_extractLsb', Nat.zero_add, BitVec.getLsbD_append (x := x) (y := a)]
  simp [hi]

/-- R183: the chip's address after the cache write. -/
@[simp] theorem chipAddress_readdress (voc : Vocabulary) (a : Byte) (c : Chip) :
    chipAddress voc (readdress voc a c) = a := by
  simp only [chipAddress, readdress, cacheReg, cached, cache, List.find?_cons, decide_true,
    Option.map_some, Option.getD_some]
  exact low_byte _ a

end Sys2Proof.Machine
end

