-- ==== Sys2Proof/Laws/Operands.lean ====
section
/-!
SUPPORT. What the conversions of Machine/Operands.lean do: lengths, and each assembly undone by its
inverse (R10, R82, R86, R89).
-/

namespace Sys2Proof.Machine

/-! ### Lengths -/

@[simp] theorem be32_length (v : Word) : (be32 v).length = 4 := rfl

@[simp] theorem le32_length (v : Word) : (le32 v).length = 4 := rfl

@[simp] theorem be16_length (v : BitVec 16) : (be16 v).length = 2 := rfl

@[simp] theorem preambleOut_length : preambleOut.length = 2 := rfl

@[simp] theorem preambleIn_length : preambleIn.length = 2 := rfl

@[simp] theorem respBody_length (v : Word) (c g : Byte) (f : BitVec 3) (k : BitVec 5) :
    (respBody v c g f k).length = 7 := rfl

@[simp] theorem midstateBytes_nil : midstateBytes [] = [] := rfl

@[simp] theorem midstateBytes_cons (m : Midstate) (ms : List Midstate) :
    midstateBytes (m :: ms) = m.toList ++ midstateBytes ms := rfl

@[simp] theorem midstateBytes_length (ms : List Midstate) :
    (midstateBytes ms).length = 32 * ms.length := by
  induction ms with
  | nil => rfl
  | cons m ms ih => simp [ih]; omega

@[simp] theorem wireOut_length (pre : Bool) (body : List Byte) :
    (wireOut pre body).length = body.length + if pre then 2 else 0 := by
  cases pre <;> simp [wireOut]; omega

@[simp] theorem wireIn_length (pre : Bool) (body : List Byte) :
    (wireIn pre body).length = body.length + if pre then 2 else 0 := by
  cases pre <;> simp [wireIn]; omega

theorem respLen_le (pre : Bool) : respLen pre ≤ 9 := by cases pre <;> decide

theorem wireIn_respLen (pre : Bool) (body : List Byte) (h : body.length = 7) :
    (wireIn pre body).length = respLen pre := by
  cases pre <;> simp [h, respLen]

/-! ### Bytes by index -/

theorem byteAt_append_right (hd t : List Byte) (j : Nat) :
    byteAt (hd ++ t) (hd.length + j) = byteAt t j := by
  simp only [byteAt, List.getD_eq_getElem?_getD]
  rw [List.getElem?_append_right (by omega), Nat.add_sub_cancel_left]

theorem byteAt_append_left {hd : List Byte} {j : Nat} (t : List Byte) (h : j < hd.length) :
    byteAt (hd ++ t) j = byteAt hd j := by
  simp [byteAt, List.getD_eq_getElem?_getD, List.getElem?_append_left h]

theorem byteAt_midstate (m : Midstate) (k : Fin 32) : byteAt m.toList k.val = m[k] := by
  simp [byteAt, List.getD_eq_getElem?_getD]

/-! ### Assembly undone -/

theorem append_extracts (v : Word) :
    v.extractLsb' 24 8 ++ v.extractLsb' 16 8 ++ v.extractLsb' 8 8 ++ v.extractLsb' 0 8 = v := by
  apply BitVec.eq_of_getLsbD_eq
  intro i hi
  simp only [BitVec.getLsbD_append, BitVec.getLsbD_extractLsb']
  rcases Nat.lt_or_ge i 8 with h | h
  · simp [h]
  · rcases Nat.lt_or_ge i 16 with h2 | h2
    · simp [show ¬ i < 8 by omega, show i - 8 < 8 by omega, show 8 + (i - 8) = i by omega]
    · rcases Nat.lt_or_ge i 24 with h3 | h3
      · simp [show ¬ i < 8 by omega, show ¬ i - 8 < 8 by omega, show i - 8 - 8 < 8 by omega,
          show 16 + (i - 8 - 8) = i by omega]
      · simp [show ¬ i < 8 by omega, show ¬ i - 8 < 8 by omega, show ¬ i - 8 - 8 < 8 by omega,
          show i - 8 - 8 - 8 < 8 by omega, show 24 + (i - 8 - 8 - 8) = i by omega]

/-- R10, R89: `from_be32(be32(v)) = v`, wherever the four bytes stand. -/
theorem be32At_be32 (v : Word) (t : List Byte) : be32At (be32 v ++ t) 0 = v := append_extracts v

/-- R52: the job words are read back from their little-endian bytes. -/
theorem le32At_le32 (v : Word) (t : List Byte) : le32At (le32 v ++ t) 0 = v := append_extracts v

/-- R86: the last byte of a response holds `f` and the checksum in their own bits. -/
theorem extract_append_high (f : BitVec 3) (k : BitVec 5) :
    (f ++ k : Byte).extractLsb' 5 3 = f := by
  revert f k; decide +kernel

theorem extract_append_low (f : BitVec 3) (k : BitVec 5) :
    (f ++ k : Byte).extractLsb' 0 5 = k := by
  revert f k; decide +kernel

/-- R85, R89: byte `i` of midstate `k` stands `32k + i` bytes after the first midstate byte. -/
theorem byteAt_midstateBytes (ms : List Midstate) (t : List Byte) (k : Nat) (h : k < ms.length)
    (i : Fin 32) : byteAt (midstateBytes ms ++ t) (32 * k + i.val) = ms[k][i] := by
  induction ms generalizing k with
  | nil => simp at h
  | cons m ms ih =>
    have hm : m.toList.length = 32 := by simp
    rw [midstateBytes_cons, List.append_assoc]
    cases k with
    | zero =>
      rw [show 32 * 0 + i.val = i.val by omega, byteAt_append_left _ (by omega)]
      exact byteAt_midstate m i
    | succ k =>
      rw [show 32 * (k + 1) + i.val = m.toList.length + (32 * k + i.val) by omega,
        byteAt_append_right]
      exact ih k (by simpa using h)

/-- R85: the midstates are read back from the positions the format gives them. -/
theorem midstatesAt_bytes (hd t : List Byte) (ms : List Midstate) (h : hd.length = 20) :
    midstatesAt (hd ++ (midstateBytes ms ++ t)) ms.length = ms := by
  apply List.ext_getElem
  · simp [midstatesAt]
  · intro k h1 h2
    simp only [midstatesAt, List.getElem_map, List.getElem_range]
    apply Vector.ext
    intro i hi
    simp only [midstateAt, Vector.getElem_ofFn]
    rw [show 20 + 32 * k + i = hd.length + (32 * k + i) by omega, byteAt_append_right]
    exact byteAt_midstateBytes ms t k h2 ⟨i, hi⟩

end Sys2Proof.Machine
end

