-- ==== Sys2Proof/Laws/State.lean ====
section
/-!
SUPPORT. One lemma per field per update of State (Machine/Ops.lean), true by rfl, so that no later proof
unfolds a record update.
-/

namespace Sys2Proof.Machine

variable (s : State)

/-! ### clearValid -/

@[simp] theorem clearValid_cfgPre : (clearValid s).cfgPre = s.cfgPre := rfl
@[simp] theorem clearValid_crc5 : (clearValid s).crc5 = s.crc5 := rfl
@[simp] theorem clearValid_crc16 : (clearValid s).crc16 = s.crc16 := rfl
@[simp] theorem clearValid_cmd : (clearValid s).cmd = s.cmd := rfl
@[simp] theorem clearValid_job : (clearValid s).job = s.job := rfl
@[simp] theorem clearValid_txbuf : (clearValid s).txbuf = s.txbuf := rfl
@[simp] theorem clearValid_txlen : (clearValid s).txlen = s.txlen := rfl
@[simp] theorem clearValid_rxbuf : (clearValid s).rxbuf = s.rxbuf := rfl
@[simp] theorem clearValid_rxcnt : (clearValid s).rxcnt = s.rxcnt := rfl
@[simp] theorem clearValid_res : (clearValid s).res = { s.res with valid := false } := rfl
@[simp] theorem clearValid_status : (clearValid s).status = s.status := rfl
@[simp] theorem clearValid_info : (clearValid s).info = s.info := rfl
@[simp] theorem clearValid_mode : (clearValid s).mode = s.mode := rfl
@[simp] theorem clearValid_idx : (clearValid s).idx = s.idx := rfl
@[simp] theorem clearValid_bus : (clearValid s).bus = s.bus := rfl
@[simp] theorem clearValid_pending : (clearValid s).pending = s.pending := rfl
@[simp] theorem clearValid_returned : (clearValid s).returned = s.returned := rfl
@[simp] theorem clearValid_everFailed : (clearValid s).everFailed = s.everFailed := rfl

/-! ### latchRes -/

@[simp] theorem latchRes_cfgPre (v : Word) (c g : Byte) :
    (latchRes v c g s).cfgPre =
      s.cfgPre := rfl
@[simp] theorem latchRes_crc5 (v : Word) (c g : Byte) : (latchRes v c g s).crc5 = s.crc5 := rfl
@[simp] theorem latchRes_crc16 (v : Word) (c g : Byte) : (latchRes v c g s).crc16 = s.crc16 := rfl
@[simp] theorem latchRes_cmd (v : Word) (c g : Byte) : (latchRes v c g s).cmd = s.cmd := rfl
@[simp] theorem latchRes_job (v : Word) (c g : Byte) : (latchRes v c g s).job = s.job := rfl
@[simp] theorem latchRes_txbuf (v : Word) (c g : Byte) : (latchRes v c g s).txbuf = s.txbuf := rfl
@[simp] theorem latchRes_txlen (v : Word) (c g : Byte) : (latchRes v c g s).txlen = s.txlen := rfl
@[simp] theorem latchRes_rxbuf (v : Word) (c g : Byte) : (latchRes v c g s).rxbuf = s.rxbuf := rfl
@[simp] theorem latchRes_rxcnt (v : Word) (c g : Byte) : (latchRes v c g s).rxcnt = s.rxcnt := rfl
@[simp] theorem latchRes_res (v : Word) (c g : Byte) :
    (latchRes v c g s).res =
      { value := v, chip := c, reg := g, valid := true } := rfl
@[simp] theorem latchRes_status (v : Word) (c g : Byte) :
    (latchRes v c g s).status =
      s.status := rfl
@[simp] theorem latchRes_info (v : Word) (c g : Byte) : (latchRes v c g s).info = s.info := rfl
@[simp] theorem latchRes_mode (v : Word) (c g : Byte) : (latchRes v c g s).mode = s.mode := rfl
@[simp] theorem latchRes_idx (v : Word) (c g : Byte) : (latchRes v c g s).idx = s.idx := rfl
@[simp] theorem latchRes_bus (v : Word) (c g : Byte) : (latchRes v c g s).bus = s.bus := rfl
@[simp] theorem latchRes_pending (v : Word) (c g : Byte) :
    (latchRes v c g s).pending =
      s.pending := rfl
@[simp] theorem latchRes_returned (v : Word) (c g : Byte) :
    (latchRes v c g s).returned =
      s.returned := rfl
@[simp] theorem latchRes_everFailed (v : Word) (c g : Byte) :
    (latchRes v c g s).everFailed =
      s.everFailed := rfl

/-! ### latchCmd -/

@[simp] theorem latchCmd_cfgPre (op : Byte) (b : Bool) (c g : Byte) (v : Option Word) :
    (latchCmd op b c g v s).cfgPre =
      s.cfgPre := rfl
@[simp] theorem latchCmd_crc5 (op : Byte) (b : Bool) (c g : Byte) (v : Option Word) :
    (latchCmd op b c g v s).crc5 =
      s.crc5 := rfl
@[simp] theorem latchCmd_crc16 (op : Byte) (b : Bool) (c g : Byte) (v : Option Word) :
    (latchCmd op b c g v s).crc16 =
      s.crc16 := rfl
@[simp] theorem latchCmd_cmd (op : Byte) (b : Bool) (c g : Byte) (v : Option Word) :
    (latchCmd op b c g v s).cmd =
      { op := op, b := b, chip := c, reg := g, val := v.getD s.cmd.val } := rfl
@[simp] theorem latchCmd_job (op : Byte) (b : Bool) (c g : Byte) (v : Option Word) :
    (latchCmd op b c g v s).job =
      s.job := rfl
@[simp] theorem latchCmd_txbuf (op : Byte) (b : Bool) (c g : Byte) (v : Option Word) :
    (latchCmd op b c g v s).txbuf =
      s.txbuf := rfl
@[simp] theorem latchCmd_txlen (op : Byte) (b : Bool) (c g : Byte) (v : Option Word) :
    (latchCmd op b c g v s).txlen =
      s.txlen := rfl
@[simp] theorem latchCmd_rxbuf (op : Byte) (b : Bool) (c g : Byte) (v : Option Word) :
    (latchCmd op b c g v s).rxbuf =
      s.rxbuf := rfl
@[simp] theorem latchCmd_rxcnt (op : Byte) (b : Bool) (c g : Byte) (v : Option Word) :
    (latchCmd op b c g v s).rxcnt =
      s.rxcnt := rfl
@[simp] theorem latchCmd_res (op : Byte) (b : Bool) (c g : Byte) (v : Option Word) :
    (latchCmd op b c g v s).res =
      s.res := rfl
@[simp] theorem latchCmd_status (op : Byte) (b : Bool) (c g : Byte) (v : Option Word) :
    (latchCmd op b c g v s).status =
      s.status := rfl
@[simp] theorem latchCmd_info (op : Byte) (b : Bool) (c g : Byte) (v : Option Word) :
    (latchCmd op b c g v s).info =
      s.info := rfl
@[simp] theorem latchCmd_mode (op : Byte) (b : Bool) (c g : Byte) (v : Option Word) :
    (latchCmd op b c g v s).mode =
      s.mode := rfl
@[simp] theorem latchCmd_idx (op : Byte) (b : Bool) (c g : Byte) (v : Option Word) :
    (latchCmd op b c g v s).idx =
      s.idx := rfl
@[simp] theorem latchCmd_bus (op : Byte) (b : Bool) (c g : Byte) (v : Option Word) :
    (latchCmd op b c g v s).bus =
      s.bus := rfl
@[simp] theorem latchCmd_pending (op : Byte) (b : Bool) (c g : Byte) (v : Option Word) :
    (latchCmd op b c g v s).pending =
      s.pending := rfl
@[simp] theorem latchCmd_returned (op : Byte) (b : Bool) (c g : Byte) (v : Option Word) :
    (latchCmd op b c g v s).returned =
      s.returned := rfl
@[simp] theorem latchCmd_everFailed (op : Byte) (b : Bool) (c g : Byte) (v : Option Word) :
    (latchCmd op b c g v s).everFailed =
      s.everFailed := rfl

/-! ### latchJob -/

@[simp] theorem latchJob_cfgPre (j : Byte) (n d t k : Word) (ms : List Midstate) :
    (latchJob j n d t k ms s).cfgPre =
      s.cfgPre := rfl
@[simp] theorem latchJob_crc5 (j : Byte) (n d t k : Word) (ms : List Midstate) :
    (latchJob j n d t k ms s).crc5 =
      s.crc5 := rfl
@[simp] theorem latchJob_crc16 (j : Byte) (n d t k : Word) (ms : List Midstate) :
    (latchJob j n d t k ms s).crc16 =
      s.crc16 := rfl
@[simp] theorem latchJob_cmd (j : Byte) (n d t k : Word) (ms : List Midstate) :
    (latchJob j n d t k ms s).cmd =
      s.cmd := rfl
@[simp] theorem latchJob_job (j : Byte) (n d t k : Word) (ms : List Midstate) :
    (latchJob j n d t k ms s).job =
      { id := j, nmid := BitVec.ofNat 8 ms.length, nonce := n, nbits := d, ntime := t, merkle := k, mid := latchMids ms s.job.mid } := rfl
@[simp] theorem latchJob_txbuf (j : Byte) (n d t k : Word) (ms : List Midstate) :
    (latchJob j n d t k ms s).txbuf =
      s.txbuf := rfl
@[simp] theorem latchJob_txlen (j : Byte) (n d t k : Word) (ms : List Midstate) :
    (latchJob j n d t k ms s).txlen =
      s.txlen := rfl
@[simp] theorem latchJob_rxbuf (j : Byte) (n d t k : Word) (ms : List Midstate) :
    (latchJob j n d t k ms s).rxbuf =
      s.rxbuf := rfl
@[simp] theorem latchJob_rxcnt (j : Byte) (n d t k : Word) (ms : List Midstate) :
    (latchJob j n d t k ms s).rxcnt =
      s.rxcnt := rfl
@[simp] theorem latchJob_res (j : Byte) (n d t k : Word) (ms : List Midstate) :
    (latchJob j n d t k ms s).res =
      s.res := rfl
@[simp] theorem latchJob_status (j : Byte) (n d t k : Word) (ms : List Midstate) :
    (latchJob j n d t k ms s).status =
      s.status := rfl
@[simp] theorem latchJob_info (j : Byte) (n d t k : Word) (ms : List Midstate) :
    (latchJob j n d t k ms s).info =
      s.info := rfl
@[simp] theorem latchJob_mode (j : Byte) (n d t k : Word) (ms : List Midstate) :
    (latchJob j n d t k ms s).mode =
      s.mode := rfl
@[simp] theorem latchJob_idx (j : Byte) (n d t k : Word) (ms : List Midstate) :
    (latchJob j n d t k ms s).idx =
      s.idx := rfl
@[simp] theorem latchJob_bus (j : Byte) (n d t k : Word) (ms : List Midstate) :
    (latchJob j n d t k ms s).bus =
      s.bus := rfl
@[simp] theorem latchJob_pending (j : Byte) (n d t k : Word) (ms : List Midstate) :
    (latchJob j n d t k ms s).pending =
      s.pending := rfl
@[simp] theorem latchJob_returned (j : Byte) (n d t k : Word) (ms : List Midstate) :
    (latchJob j n d t k ms s).returned =
      s.returned := rfl
@[simp] theorem latchJob_everFailed (j : Byte) (n d t k : Word) (ms : List Midstate) :
    (latchJob j n d t k ms s).everFailed =
      s.everFailed := rfl

/-! ### setCrc5 -/

@[simp] theorem setCrc5_cfgPre (v : BitVec 5) : (setCrc5 v s).cfgPre = s.cfgPre := rfl
@[simp] theorem setCrc5_crc5 (v : BitVec 5) : (setCrc5 v s).crc5 = v := rfl
@[simp] theorem setCrc5_crc16 (v : BitVec 5) : (setCrc5 v s).crc16 = s.crc16 := rfl
@[simp] theorem setCrc5_cmd (v : BitVec 5) : (setCrc5 v s).cmd = s.cmd := rfl
@[simp] theorem setCrc5_job (v : BitVec 5) : (setCrc5 v s).job = s.job := rfl
@[simp] theorem setCrc5_txbuf (v : BitVec 5) : (setCrc5 v s).txbuf = s.txbuf := rfl
@[simp] theorem setCrc5_txlen (v : BitVec 5) : (setCrc5 v s).txlen = s.txlen := rfl
@[simp] theorem setCrc5_rxbuf (v : BitVec 5) : (setCrc5 v s).rxbuf = s.rxbuf := rfl
@[simp] theorem setCrc5_rxcnt (v : BitVec 5) : (setCrc5 v s).rxcnt = s.rxcnt := rfl
@[simp] theorem setCrc5_res (v : BitVec 5) : (setCrc5 v s).res = s.res := rfl
@[simp] theorem setCrc5_status (v : BitVec 5) : (setCrc5 v s).status = s.status := rfl
@[simp] theorem setCrc5_info (v : BitVec 5) : (setCrc5 v s).info = s.info := rfl
@[simp] theorem setCrc5_mode (v : BitVec 5) : (setCrc5 v s).mode = s.mode := rfl
@[simp] theorem setCrc5_idx (v : BitVec 5) : (setCrc5 v s).idx = s.idx := rfl
@[simp] theorem setCrc5_bus (v : BitVec 5) : (setCrc5 v s).bus = s.bus := rfl
@[simp] theorem setCrc5_pending (v : BitVec 5) : (setCrc5 v s).pending = s.pending := rfl
@[simp] theorem setCrc5_returned (v : BitVec 5) : (setCrc5 v s).returned = s.returned := rfl
@[simp] theorem setCrc5_everFailed (v : BitVec 5) : (setCrc5 v s).everFailed = s.everFailed := rfl

/-! ### setCrc16 -/

@[simp] theorem setCrc16_cfgPre (v : BitVec 16) : (setCrc16 v s).cfgPre = s.cfgPre := rfl
@[simp] theorem setCrc16_crc5 (v : BitVec 16) : (setCrc16 v s).crc5 = s.crc5 := rfl
@[simp] theorem setCrc16_crc16 (v : BitVec 16) : (setCrc16 v s).crc16 = v := rfl
@[simp] theorem setCrc16_cmd (v : BitVec 16) : (setCrc16 v s).cmd = s.cmd := rfl
@[simp] theorem setCrc16_job (v : BitVec 16) : (setCrc16 v s).job = s.job := rfl
@[simp] theorem setCrc16_txbuf (v : BitVec 16) : (setCrc16 v s).txbuf = s.txbuf := rfl
@[simp] theorem setCrc16_txlen (v : BitVec 16) : (setCrc16 v s).txlen = s.txlen := rfl
@[simp] theorem setCrc16_rxbuf (v : BitVec 16) : (setCrc16 v s).rxbuf = s.rxbuf := rfl
@[simp] theorem setCrc16_rxcnt (v : BitVec 16) : (setCrc16 v s).rxcnt = s.rxcnt := rfl
@[simp] theorem setCrc16_res (v : BitVec 16) : (setCrc16 v s).res = s.res := rfl
@[simp] theorem setCrc16_status (v : BitVec 16) : (setCrc16 v s).status = s.status := rfl
@[simp] theorem setCrc16_info (v : BitVec 16) : (setCrc16 v s).info = s.info := rfl
@[simp] theorem setCrc16_mode (v : BitVec 16) : (setCrc16 v s).mode = s.mode := rfl
@[simp] theorem setCrc16_idx (v : BitVec 16) : (setCrc16 v s).idx = s.idx := rfl
@[simp] theorem setCrc16_bus (v : BitVec 16) : (setCrc16 v s).bus = s.bus := rfl
@[simp] theorem setCrc16_pending (v : BitVec 16) : (setCrc16 v s).pending = s.pending := rfl
@[simp] theorem setCrc16_returned (v : BitVec 16) : (setCrc16 v s).returned = s.returned := rfl
@[simp] theorem setCrc16_everFailed (v : BitVec 16) :
    (setCrc16 v s).everFailed =
      s.everFailed := rfl

/-! ### setPre -/

@[simp] theorem setPre_cfgPre (p : Bool) : (setPre p s).cfgPre = p := rfl
@[simp] theorem setPre_crc5 (p : Bool) : (setPre p s).crc5 = s.crc5 := rfl
@[simp] theorem setPre_crc16 (p : Bool) : (setPre p s).crc16 = s.crc16 := rfl
@[simp] theorem setPre_cmd (p : Bool) : (setPre p s).cmd = s.cmd := rfl
@[simp] theorem setPre_job (p : Bool) : (setPre p s).job = s.job := rfl
@[simp] theorem setPre_txbuf (p : Bool) : (setPre p s).txbuf = s.txbuf := rfl
@[simp] theorem setPre_txlen (p : Bool) : (setPre p s).txlen = s.txlen := rfl
@[simp] theorem setPre_rxbuf (p : Bool) : (setPre p s).rxbuf = s.rxbuf := rfl
@[simp] theorem setPre_rxcnt (p : Bool) : (setPre p s).rxcnt = s.rxcnt := rfl
@[simp] theorem setPre_res (p : Bool) : (setPre p s).res = s.res := rfl
@[simp] theorem setPre_status (p : Bool) : (setPre p s).status = s.status := rfl
@[simp] theorem setPre_info (p : Bool) : (setPre p s).info = s.info := rfl
@[simp] theorem setPre_mode (p : Bool) : (setPre p s).mode = s.mode := rfl
@[simp] theorem setPre_idx (p : Bool) : (setPre p s).idx = s.idx := rfl
@[simp] theorem setPre_bus (p : Bool) : (setPre p s).bus = s.bus := rfl
@[simp] theorem setPre_pending (p : Bool) : (setPre p s).pending = s.pending := rfl
@[simp] theorem setPre_returned (p : Bool) : (setPre p s).returned = s.returned := rfl
@[simp] theorem setPre_everFailed (p : Bool) : (setPre p s).everFailed = s.everFailed := rfl

/-! ### setMode -/

@[simp] theorem setMode_cfgPre (m : Mode) : (setMode m s).cfgPre = s.cfgPre := rfl
@[simp] theorem setMode_crc5 (m : Mode) : (setMode m s).crc5 = s.crc5 := rfl
@[simp] theorem setMode_crc16 (m : Mode) : (setMode m s).crc16 = s.crc16 := rfl
@[simp] theorem setMode_cmd (m : Mode) : (setMode m s).cmd = s.cmd := rfl
@[simp] theorem setMode_job (m : Mode) : (setMode m s).job = s.job := rfl
@[simp] theorem setMode_txbuf (m : Mode) : (setMode m s).txbuf = s.txbuf := rfl
@[simp] theorem setMode_txlen (m : Mode) : (setMode m s).txlen = s.txlen := rfl
@[simp] theorem setMode_rxbuf (m : Mode) : (setMode m s).rxbuf = s.rxbuf := rfl
@[simp] theorem setMode_rxcnt (m : Mode) : (setMode m s).rxcnt = s.rxcnt := rfl
@[simp] theorem setMode_res (m : Mode) : (setMode m s).res = s.res := rfl
@[simp] theorem setMode_status (m : Mode) : (setMode m s).status = s.status := rfl
@[simp] theorem setMode_info (m : Mode) : (setMode m s).info = s.info := rfl
@[simp] theorem setMode_mode (m : Mode) : (setMode m s).mode = m := rfl
@[simp] theorem setMode_idx (m : Mode) : (setMode m s).idx = s.idx := rfl
@[simp] theorem setMode_bus (m : Mode) : (setMode m s).bus = s.bus := rfl
@[simp] theorem setMode_pending (m : Mode) : (setMode m s).pending = s.pending := rfl
@[simp] theorem setMode_returned (m : Mode) : (setMode m s).returned = s.returned := rfl
@[simp] theorem setMode_everFailed (m : Mode) : (setMode m s).everFailed = s.everFailed := rfl

/-! ### setIdx -/

@[simp] theorem setIdx_cfgPre (n : Nat) : (setIdx n s).cfgPre = s.cfgPre := rfl
@[simp] theorem setIdx_crc5 (n : Nat) : (setIdx n s).crc5 = s.crc5 := rfl
@[simp] theorem setIdx_crc16 (n : Nat) : (setIdx n s).crc16 = s.crc16 := rfl
@[simp] theorem setIdx_cmd (n : Nat) : (setIdx n s).cmd = s.cmd := rfl
@[simp] theorem setIdx_job (n : Nat) : (setIdx n s).job = s.job := rfl
@[simp] theorem setIdx_txbuf (n : Nat) : (setIdx n s).txbuf = s.txbuf := rfl
@[simp] theorem setIdx_txlen (n : Nat) : (setIdx n s).txlen = s.txlen := rfl
@[simp] theorem setIdx_rxbuf (n : Nat) : (setIdx n s).rxbuf = s.rxbuf := rfl
@[simp] theorem setIdx_rxcnt (n : Nat) : (setIdx n s).rxcnt = s.rxcnt := rfl
@[simp] theorem setIdx_res (n : Nat) : (setIdx n s).res = s.res := rfl
@[simp] theorem setIdx_status (n : Nat) : (setIdx n s).status = s.status := rfl
@[simp] theorem setIdx_info (n : Nat) : (setIdx n s).info = s.info := rfl
@[simp] theorem setIdx_mode (n : Nat) : (setIdx n s).mode = s.mode := rfl
@[simp] theorem setIdx_idx (n : Nat) : (setIdx n s).idx = BitVec.ofNat 8 n := rfl
@[simp] theorem setIdx_bus (n : Nat) : (setIdx n s).bus = s.bus := rfl
@[simp] theorem setIdx_pending (n : Nat) : (setIdx n s).pending = s.pending := rfl
@[simp] theorem setIdx_returned (n : Nat) : (setIdx n s).returned = s.returned := rfl
@[simp] theorem setIdx_everFailed (n : Nat) : (setIdx n s).everFailed = s.everFailed := rfl

/-! ### storeTx -/

@[simp] theorem storeTx_cfgPre (w : List Byte) : (storeTx w s).cfgPre = s.cfgPre := rfl
@[simp] theorem storeTx_crc5 (w : List Byte) : (storeTx w s).crc5 = s.crc5 := rfl
@[simp] theorem storeTx_crc16 (w : List Byte) : (storeTx w s).crc16 = s.crc16 := rfl
@[simp] theorem storeTx_cmd (w : List Byte) : (storeTx w s).cmd = s.cmd := rfl
@[simp] theorem storeTx_job (w : List Byte) : (storeTx w s).job = s.job := rfl
@[simp] theorem storeTx_txbuf (w : List Byte) :
    (storeTx w s).txbuf =
      Memory.write txSize 0 w s.txbuf := rfl
@[simp] theorem storeTx_txlen (w : List Byte) : (storeTx w s).txlen = BitVec.ofNat 8 w.length := rfl
@[simp] theorem storeTx_rxbuf (w : List Byte) : (storeTx w s).rxbuf = s.rxbuf := rfl
@[simp] theorem storeTx_rxcnt (w : List Byte) : (storeTx w s).rxcnt = s.rxcnt := rfl
@[simp] theorem storeTx_res (w : List Byte) : (storeTx w s).res = s.res := rfl
@[simp] theorem storeTx_status (w : List Byte) : (storeTx w s).status = s.status := rfl
@[simp] theorem storeTx_info (w : List Byte) : (storeTx w s).info = s.info := rfl
@[simp] theorem storeTx_mode (w : List Byte) : (storeTx w s).mode = s.mode := rfl
@[simp] theorem storeTx_idx (w : List Byte) : (storeTx w s).idx = s.idx := rfl
@[simp] theorem storeTx_bus (w : List Byte) : (storeTx w s).bus = s.bus := rfl
@[simp] theorem storeTx_pending (w : List Byte) : (storeTx w s).pending = s.pending := rfl
@[simp] theorem storeTx_returned (w : List Byte) : (storeTx w s).returned = s.returned := rfl
@[simp] theorem storeTx_everFailed (w : List Byte) : (storeTx w s).everFailed = s.everFailed := rfl

/-! ### storeRx -/

@[simp] theorem storeRx_cfgPre (w : List Byte) : (storeRx w s).cfgPre = s.cfgPre := rfl
@[simp] theorem storeRx_crc5 (w : List Byte) : (storeRx w s).crc5 = s.crc5 := rfl
@[simp] theorem storeRx_crc16 (w : List Byte) : (storeRx w s).crc16 = s.crc16 := rfl
@[simp] theorem storeRx_cmd (w : List Byte) : (storeRx w s).cmd = s.cmd := rfl
@[simp] theorem storeRx_job (w : List Byte) : (storeRx w s).job = s.job := rfl
@[simp] theorem storeRx_txbuf (w : List Byte) : (storeRx w s).txbuf = s.txbuf := rfl
@[simp] theorem storeRx_txlen (w : List Byte) : (storeRx w s).txlen = s.txlen := rfl
@[simp] theorem storeRx_rxbuf (w : List Byte) :
    (storeRx w s).rxbuf =
      Memory.write rxSize 0 w s.rxbuf := rfl
@[simp] theorem storeRx_rxcnt (w : List Byte) : (storeRx w s).rxcnt = BitVec.ofNat 4 w.length := rfl
@[simp] theorem storeRx_res (w : List Byte) : (storeRx w s).res = s.res := rfl
@[simp] theorem storeRx_status (w : List Byte) : (storeRx w s).status = s.status := rfl
@[simp] theorem storeRx_info (w : List Byte) : (storeRx w s).info = s.info := rfl
@[simp] theorem storeRx_mode (w : List Byte) : (storeRx w s).mode = s.mode := rfl
@[simp] theorem storeRx_idx (w : List Byte) : (storeRx w s).idx = s.idx := rfl
@[simp] theorem storeRx_bus (w : List Byte) : (storeRx w s).bus = s.bus := rfl
@[simp] theorem storeRx_pending (w : List Byte) : (storeRx w s).pending = s.pending := rfl
@[simp] theorem storeRx_returned (w : List Byte) : (storeRx w s).returned = s.returned := rfl
@[simp] theorem storeRx_everFailed (w : List Byte) : (storeRx w s).everFailed = s.everFailed := rfl

/-! ### setBus -/

@[simp] theorem setBus_cfgPre (b : Bus) : (setBus b s).cfgPre = s.cfgPre := rfl
@[simp] theorem setBus_crc5 (b : Bus) : (setBus b s).crc5 = s.crc5 := rfl
@[simp] theorem setBus_crc16 (b : Bus) : (setBus b s).crc16 = s.crc16 := rfl
@[simp] theorem setBus_cmd (b : Bus) : (setBus b s).cmd = s.cmd := rfl
@[simp] theorem setBus_job (b : Bus) : (setBus b s).job = s.job := rfl
@[simp] theorem setBus_txbuf (b : Bus) : (setBus b s).txbuf = s.txbuf := rfl
@[simp] theorem setBus_txlen (b : Bus) : (setBus b s).txlen = s.txlen := rfl
@[simp] theorem setBus_rxbuf (b : Bus) : (setBus b s).rxbuf = s.rxbuf := rfl
@[simp] theorem setBus_rxcnt (b : Bus) : (setBus b s).rxcnt = s.rxcnt := rfl
@[simp] theorem setBus_res (b : Bus) : (setBus b s).res = s.res := rfl
@[simp] theorem setBus_status (b : Bus) : (setBus b s).status = s.status := rfl
@[simp] theorem setBus_info (b : Bus) : (setBus b s).info = s.info := rfl
@[simp] theorem setBus_mode (b : Bus) : (setBus b s).mode = s.mode := rfl
@[simp] theorem setBus_idx (b : Bus) : (setBus b s).idx = s.idx := rfl
@[simp] theorem setBus_bus (b : Bus) : (setBus b s).bus = b := rfl
@[simp] theorem setBus_pending (b : Bus) : (setBus b s).pending = s.pending := rfl
@[simp] theorem setBus_returned (b : Bus) : (setBus b s).returned = s.returned := rfl
@[simp] theorem setBus_everFailed (b : Bus) : (setBus b s).everFailed = s.everFailed := rfl

/-! ### setPending -/

@[simp] theorem setPending_cfgPre (rs : List Request) : (setPending rs s).cfgPre = s.cfgPre := rfl
@[simp] theorem setPending_crc5 (rs : List Request) : (setPending rs s).crc5 = s.crc5 := rfl
@[simp] theorem setPending_crc16 (rs : List Request) : (setPending rs s).crc16 = s.crc16 := rfl
@[simp] theorem setPending_cmd (rs : List Request) : (setPending rs s).cmd = s.cmd := rfl
@[simp] theorem setPending_job (rs : List Request) : (setPending rs s).job = s.job := rfl
@[simp] theorem setPending_txbuf (rs : List Request) : (setPending rs s).txbuf = s.txbuf := rfl
@[simp] theorem setPending_txlen (rs : List Request) : (setPending rs s).txlen = s.txlen := rfl
@[simp] theorem setPending_rxbuf (rs : List Request) : (setPending rs s).rxbuf = s.rxbuf := rfl
@[simp] theorem setPending_rxcnt (rs : List Request) : (setPending rs s).rxcnt = s.rxcnt := rfl
@[simp] theorem setPending_res (rs : List Request) : (setPending rs s).res = s.res := rfl
@[simp] theorem setPending_status (rs : List Request) : (setPending rs s).status = s.status := rfl
@[simp] theorem setPending_info (rs : List Request) : (setPending rs s).info = s.info := rfl
@[simp] theorem setPending_mode (rs : List Request) : (setPending rs s).mode = s.mode := rfl
@[simp] theorem setPending_idx (rs : List Request) : (setPending rs s).idx = s.idx := rfl
@[simp] theorem setPending_bus (rs : List Request) : (setPending rs s).bus = s.bus := rfl
@[simp] theorem setPending_pending (rs : List Request) : (setPending rs s).pending = rs := rfl
@[simp] theorem setPending_returned (rs : List Request) :
    (setPending rs s).returned =
      s.returned := rfl
@[simp] theorem setPending_everFailed (rs : List Request) :
    (setPending rs s).everFailed =
      s.everFailed := rfl

/-! ### arrive -/

@[simp] theorem arrive_cfgPre (w : List Byte) : (arrive w s).cfgPre = s.cfgPre := rfl
@[simp] theorem arrive_crc5 (w : List Byte) : (arrive w s).crc5 = s.crc5 := rfl
@[simp] theorem arrive_crc16 (w : List Byte) : (arrive w s).crc16 = s.crc16 := rfl
@[simp] theorem arrive_cmd (w : List Byte) : (arrive w s).cmd = s.cmd := rfl
@[simp] theorem arrive_job (w : List Byte) : (arrive w s).job = s.job := rfl
@[simp] theorem arrive_txbuf (w : List Byte) : (arrive w s).txbuf = s.txbuf := rfl
@[simp] theorem arrive_txlen (w : List Byte) : (arrive w s).txlen = s.txlen := rfl
@[simp] theorem arrive_rxbuf (w : List Byte) : (arrive w s).rxbuf = s.rxbuf := rfl
@[simp] theorem arrive_rxcnt (w : List Byte) : (arrive w s).rxcnt = s.rxcnt := rfl
@[simp] theorem arrive_res (w : List Byte) : (arrive w s).res = s.res := rfl
@[simp] theorem arrive_status (w : List Byte) : (arrive w s).status = s.status := rfl
@[simp] theorem arrive_info (w : List Byte) : (arrive w s).info = s.info := rfl
@[simp] theorem arrive_mode (w : List Byte) : (arrive w s).mode = s.mode := rfl
@[simp] theorem arrive_idx (w : List Byte) : (arrive w s).idx = s.idx := rfl
@[simp] theorem arrive_bus (w : List Byte) :
    (arrive w s).bus =
      { s.bus with inbound := s.bus.inbound ++ w } := rfl
@[simp] theorem arrive_pending (w : List Byte) : (arrive w s).pending = s.pending := rfl
@[simp] theorem arrive_returned (w : List Byte) : (arrive w s).returned = s.returned := rfl
@[simp] theorem arrive_everFailed (w : List Byte) : (arrive w s).everFailed = s.everFailed := rfl

/-! ### raise -/

@[simp] theorem raise_cfgPre (o : OpOutcome) : (raise o s).cfgPre = s.cfgPre := rfl
@[simp] theorem raise_crc5 (o : OpOutcome) : (raise o s).crc5 = s.crc5 := rfl
@[simp] theorem raise_crc16 (o : OpOutcome) : (raise o s).crc16 = s.crc16 := rfl
@[simp] theorem raise_cmd (o : OpOutcome) : (raise o s).cmd = s.cmd := rfl
@[simp] theorem raise_job (o : OpOutcome) : (raise o s).job = s.job := rfl
@[simp] theorem raise_txbuf (o : OpOutcome) : (raise o s).txbuf = s.txbuf := rfl
@[simp] theorem raise_txlen (o : OpOutcome) : (raise o s).txlen = s.txlen := rfl
@[simp] theorem raise_rxbuf (o : OpOutcome) : (raise o s).rxbuf = s.rxbuf := rfl
@[simp] theorem raise_rxcnt (o : OpOutcome) : (raise o s).rxcnt = s.rxcnt := rfl
@[simp] theorem raise_res (o : OpOutcome) : (raise o s).res = s.res := rfl
@[simp] theorem raise_status (o : OpOutcome) : (raise o s).status = o.code := rfl
@[simp] theorem raise_info (o : OpOutcome) : (raise o s).info = o.info := rfl
@[simp] theorem raise_mode (o : OpOutcome) : (raise o s).mode = .idle := rfl
@[simp] theorem raise_idx (o : OpOutcome) : (raise o s).idx = s.idx := rfl
@[simp] theorem raise_bus (o : OpOutcome) : (raise o s).bus = s.bus := rfl
@[simp] theorem raise_pending (o : OpOutcome) : (raise o s).pending = s.pending := rfl
@[simp] theorem raise_returned (o : OpOutcome) : (raise o s).returned = .raised o := rfl
@[simp] theorem raise_everFailed (o : OpOutcome) : (raise o s).everFailed = true := rfl

/-- R31, R200: what every outcome puts into `STATUS` and `STATUS.INFO` is a legal pair. -/
theorem statusLegal_outcome (o : OpOutcome) : statusLegal o.code o.info = true := by
  cases o <;> rfl

/-! ### finish -/

@[simp] theorem finish_cfgPre (v : Returned) : (finish v s).cfgPre = s.cfgPre := rfl
@[simp] theorem finish_crc5 (v : Returned) : (finish v s).crc5 = s.crc5 := rfl
@[simp] theorem finish_crc16 (v : Returned) : (finish v s).crc16 = s.crc16 := rfl
@[simp] theorem finish_cmd (v : Returned) : (finish v s).cmd = s.cmd := rfl
@[simp] theorem finish_job (v : Returned) : (finish v s).job = s.job := rfl
@[simp] theorem finish_txbuf (v : Returned) : (finish v s).txbuf = s.txbuf := rfl
@[simp] theorem finish_txlen (v : Returned) : (finish v s).txlen = s.txlen := rfl
@[simp] theorem finish_rxbuf (v : Returned) : (finish v s).rxbuf = s.rxbuf := rfl
@[simp] theorem finish_rxcnt (v : Returned) : (finish v s).rxcnt = s.rxcnt := rfl
@[simp] theorem finish_res (v : Returned) : (finish v s).res = s.res := rfl
@[simp] theorem finish_status (v : Returned) : (finish v s).status = 0 := rfl
@[simp] theorem finish_info (v : Returned) : (finish v s).info = .nothing := rfl
@[simp] theorem finish_mode (v : Returned) : (finish v s).mode = .idle := rfl
@[simp] theorem finish_idx (v : Returned) : (finish v s).idx = s.idx := rfl
@[simp] theorem finish_bus (v : Returned) : (finish v s).bus = s.bus := rfl
@[simp] theorem finish_pending (v : Returned) : (finish v s).pending = s.pending := rfl
@[simp] theorem finish_returned (v : Returned) : (finish v s).returned = v := rfl
@[simp] theorem finish_everFailed (v : Returned) : (finish v s).everFailed = s.everFailed := rfl

/-! ### resetBlock -/

@[simp] theorem resetBlock_cfgPre : (resetBlock s).cfgPre = Config.hasPreamble := rfl
@[simp] theorem resetBlock_crc5 : (resetBlock s).crc5 = s.crc5 := rfl
@[simp] theorem resetBlock_crc16 : (resetBlock s).crc16 = s.crc16 := rfl
@[simp] theorem resetBlock_cmd : (resetBlock s).cmd = s.cmd := rfl
@[simp] theorem resetBlock_job : (resetBlock s).job = s.job := rfl
@[simp] theorem resetBlock_txbuf : (resetBlock s).txbuf = s.txbuf := rfl
@[simp] theorem resetBlock_txlen : (resetBlock s).txlen = s.txlen := rfl
@[simp] theorem resetBlock_rxbuf : (resetBlock s).rxbuf = s.rxbuf := rfl
@[simp] theorem resetBlock_rxcnt : (resetBlock s).rxcnt = s.rxcnt := rfl
@[simp] theorem resetBlock_res : (resetBlock s).res = { s.res with valid := false } := rfl
@[simp] theorem resetBlock_status : (resetBlock s).status = 0 := rfl
@[simp] theorem resetBlock_info : (resetBlock s).info = .nothing := rfl
@[simp] theorem resetBlock_mode : (resetBlock s).mode = .idle := rfl
@[simp] theorem resetBlock_idx : (resetBlock s).idx = 0 := rfl
@[simp] theorem resetBlock_bus : (resetBlock s).bus = s.bus := rfl
@[simp] theorem resetBlock_pending : (resetBlock s).pending = s.pending := rfl
@[simp] theorem resetBlock_returned : (resetBlock s).returned = .nothing := rfl
@[simp] theorem resetBlock_everFailed : (resetBlock s).everFailed = s.everFailed := rfl

end Sys2Proof.Machine
end

