-- ==== Sys2Proof/Laws/Transport.lean ====
section
/-!
SUPPORT. What the transport primitives can do (R57, R58, R60), said once.
-/

namespace Sys2Proof.Machine

/-! ### BusWrite -/

@[simp] theorem popWrite_outbound (b : Bus) : b.popWrite.outbound = b.outbound := by
  unfold Bus.popWrite; split <;> rfl

@[simp] theorem popWrite_inbound (b : Bus) : b.popWrite.inbound = b.inbound := by
  unfold Bus.popWrite; split <;> rfl

@[simp] theorem popWrite_readScript (b : Bus) : b.popWrite.readScript = b.readScript := by
  unfold Bus.popWrite; split <;> rfl

@[simp] theorem popRead_outbound (b : Bus) : b.popRead.outbound = b.outbound := by
  unfold Bus.popRead; split <;> rfl

@[simp] theorem popRead_inbound (b : Bus) : b.popRead.inbound = b.inbound := by
  unfold Bus.popRead; split <;> rfl

@[simp] theorem popRead_writeScript (b : Bus) : b.popRead.writeScript = b.writeScript := by
  unfold Bus.popRead; split <;> rfl

/-- R57: no count of an answer is above the length of the frame. -/
theorem bytesOut_cutAnswer_le (n : Nat) (a : WriteAnswer) : bytesOut (cutAnswer n a) ≤ n := by
  cases a <;> exact Nat.min_le_right _ _

/-- R57, R208: what went out is the head of the frame, appended to the outbound stream. -/
theorem busWrite_outbound (frame : List Byte) (b : Bus) :
    (busWrite frame b).2.outbound = b.outbound ++ frame.take (bytesOut (busWrite frame b).1) := rfl

@[simp] theorem busWrite_inbound (frame : List Byte) (b : Bus) :
    (busWrite frame b).2.inbound = b.inbound := by simp [busWrite]

@[simp] theorem busWrite_readScript (frame : List Byte) (b : Bus) :
    (busWrite frame b).2.readScript = b.readScript := by simp [busWrite]

/-- R57: an accepting answer that covers the frame. -/
theorem busWrite_accepts {frame : List Byte} {b : Bus} {count : Nat}
    (h : b.nextWrite = .ok count) (hc : frame.length ≤ count) :
    busWrite frame b
      = (.ok frame.length, { b.popWrite with outbound := b.outbound ++ frame }) := by
  simp [busWrite, h, cutAnswer, bytesOut, Nat.min_eq_right hc]

/-! ### BusRead -/

/-- R58: bytes a read gives are at most the buffer's. -/
theorem readOutcome_length {n : Nat} {inb w : List Byte} {r : ReadResult}
    (h : readOutcome n inb r = .ok w) : w.length ≤ n := by
  cases r <;> simp [readOutcome] at h
  subst h
  simp only [List.length_take]
  omega

/-- R58, R60: the bytes given, and the stream left, are together the stream that was there with what
arrived. -/
theorem busRead_consumes {n : Nat} {b : Bus} {w : List Byte} (h : (busRead n b).1 = .ok w) :
    w ++ (busRead n b).2.inbound = b.inbound ++ b.nextRead.arriving := by
  cases hr : b.nextRead.result <;> simp [busRead, hr, readOutcome] at h
  subst h
  simp [busRead, hr, bytesTaken]

theorem busRead_length {n : Nat} {b : Bus} {w : List Byte} (h : (busRead n b).1 = .ok w) :
    w.length ≤ n := readOutcome_length h

@[simp] theorem busRead_outbound (n : Nat) (b : Bus) :
    (busRead n b).2.outbound = b.outbound := by simp [busRead]

@[simp] theorem busRead_writeScript (n : Nat) (b : Bus) :
    (busRead n b).2.writeScript = b.writeScript := by simp [busRead]

/-- R58: what one read gives, by the bus side's answer. -/
theorem busRead_fst (n : Nat) (b : Bus) :
    (busRead n b).1 = readOutcome n (b.inbound ++ b.nextRead.arriving) b.nextRead.result := rfl

/-- R58, R208: what one read leaves on the inbound stream. -/
theorem busRead_inbound (n : Nat) (b : Bus) :
    (busRead n b).2.inbound
      = (b.inbound ++ b.nextRead.arriving).drop (bytesTaken n b.nextRead.result) := rfl

end Sys2Proof.Machine
end

