-- ==== Sys2Proof/Laws/Operations.lean ====
section
/-!
SUPPORT. One lemma per shared operation that says everything it can do, and the frames of the sequences
built from them; callers cite these instead of unfolding.
-/

namespace Sys2Proof.Machine

/-! ### Acceptance -/

/-- R33: an operation that is accepted answers a next state; one that is not is refused. -/
theorem whenIdle_cases (f : State → State) (s : State) :
    (s.mode = .idle ∧ whenIdle f s = .next (f s)) ∨
    (s.mode ≠ .idle ∧ whenIdle f s = .refused .operationInProgress) := by
  unfold whenIdle
  split
  · exact .inl ⟨‹_›, rfl⟩
  · exact .inr ⟨‹_›, rfl⟩

theorem whenIdle_idle (f : State → State) {s : State} (h : s.mode = .idle) :
    whenIdle f s = .next (f s) := if_pos h

theorem whenIdle_busy (f : State → State) {s : State} (h : s.mode ≠ .idle) :
    whenIdle f s = .refused .operationInProgress := if_neg h

theorem whenIdle_next {f : State → State} {s t : State} (h : whenIdle f s = .next t) :
    s.mode = .idle ∧ t = f s := by
  rcases whenIdle_cases f s with ⟨hm, he⟩ | ⟨_, he⟩ <;> rw [he] at h
  · exact ⟨hm, by injection h with h; exact h.symm⟩
  · simp at h

/-! ### The end of a send -/

/-- R131, R208, R246: the three ways a send ends. -/
theorem endSend_cases (n : Nat) (a : WriteAnswer) (s : State) :
    (∃ count, n ≤ count ∧ a = .ok count ∧ endSend n a s = finish .nothing (setIdx count s)) ∨
    (∃ count, count < n ∧ a = .ok count ∧
      endSend n a s = raise (.ioError (.shortWrite count)) (setIdx count s)) ∨
    (∃ e sent, a = .err e sent ∧ endSend n a s = raise (.ioError (.transport e)) (setIdx sent s)) ∨
    (∃ sent, a = .never sent ∧ endSend n a s = setMode .tx (setIdx sent s)) := by
  cases a with
  | ok count =>
    by_cases h : count < n
    · exact .inr (.inl ⟨count, h, rfl, by simp [endSend, h]⟩)
    · exact .inl ⟨count, by omega, rfl, by simp [endSend, h]⟩
  | err e sent => exact .inr (.inr (.inl ⟨e, sent, rfl, rfl⟩))
  | never sent => exact .inr (.inr (.inr ⟨sent, rfl, rfl⟩))

/-- What the end of a send leaves alone: everything but the outcome, `MODE` and `IDX`. -/
theorem endSend_frame (n : Nat) (a : WriteAnswer) (s : State) :
    (endSend n a s).cfgPre = s.cfgPre ∧ (endSend n a s).crc5 = s.crc5 ∧
    (endSend n a s).crc16 = s.crc16 ∧ (endSend n a s).cmd = s.cmd ∧ (endSend n a s).job = s.job ∧
    (endSend n a s).txbuf = s.txbuf ∧ (endSend n a s).txlen = s.txlen ∧
    (endSend n a s).rxbuf = s.rxbuf ∧ (endSend n a s).rxcnt = s.rxcnt ∧
    (endSend n a s).res = s.res ∧ (endSend n a s).bus = s.bus ∧
    (endSend n a s).pending = s.pending := by
  rcases endSend_cases n a s with ⟨_, _, _, h⟩ | ⟨_, _, _, h⟩ | ⟨_, _, _, h⟩ | ⟨_, _, h⟩ <;>
    rw [h] <;> simp

/-- What a transmission leaves alone, and what it does to `TXBUF` and the transport. -/
theorem transmit_frame (body : List Byte) (s : State) :
    (transmit body s).cfgPre = s.cfgPre ∧ (transmit body s).crc5 = s.crc5 ∧
    (transmit body s).crc16 = s.crc16 ∧ (transmit body s).cmd = s.cmd ∧
    (transmit body s).job = s.job ∧
    (transmit body s).txbuf = Memory.write txSize 0 (wireOut s.cfgPre body) s.txbuf ∧
    (transmit body s).txlen = BitVec.ofNat 8 (wireOut s.cfgPre body).length ∧
    (transmit body s).rxbuf = s.rxbuf ∧ (transmit body s).rxcnt = s.rxcnt ∧
    (transmit body s).res = s.res ∧
    (transmit body s).bus = (busWrite (wireOut s.cfgPre body) s.bus).2 ∧
    (transmit body s).pending = s.pending := by
  simpa [transmit] using endSend_frame (wireOut s.cfgPre body).length
    (busWrite (wireOut s.cfgPre body) s.bus).1
    (setBus (busWrite (wireOut s.cfgPre body) s.bus).2 (storeTx (wireOut s.cfgPre body) s))

/-- R57, R131: a transmission the transport accepts whole ends OK. -/
theorem transmit_accepted {body : List Byte} {s : State} {count : Nat}
    (h : s.bus.nextWrite = .ok count) (hc : (wireOut s.cfgPre body).length ≤ count) :
    transmit body s
      = finish .nothing (setIdx (wireOut s.cfgPre body).length
          (setBus { s.bus.popWrite with outbound := s.bus.outbound ++ wireOut s.cfgPre body }
            (storeTx (wireOut s.cfgPre body) s))) := by
  simp [transmit, busWrite_accepts h hc, endSend]

/-! ### The end of a receive -/

/-- R160, R205: the ways a `RECV` ends after its read. -/
theorem checkResponse_cases (w : List Byte) (s : State) :
    (w.length ≠ respLen s.cfgPre ∧ checkResponse w s = raise (.framingLength w.length) s) ∨
    (w.length = respLen s.cfgPre ∧ s.cfgPre = true ∧ w.take 2 ≠ preambleIn ∧
      checkResponse w s = raise .framingPreamble (setIdx (preambleFault w) s)) ∨
    (∃ n body, w.length = respLen s.cfgPre ∧ n = respLen s.cfgPre ∧
      w = wireIn s.cfgPre body ∧ checkResponse w s = checkBody n body s) := by
  by_cases hl : w.length = respLen s.cfgPre
  · right
    cases hp : s.cfgPre with
    | false =>
      exact .inr ⟨7, w, by simp [← hp, hl], by simp [respLen], by simp [wireIn],
        by simp [checkResponse, checkPreamble, hl, hp]⟩
    | true =>
      by_cases ht : w.take 2 = preambleIn
      · refine .inr ⟨9, w.drop 2, by simp [← hp, hl], by simp [respLen], ?_,
          by simp [checkResponse, checkPreamble, hl, hp, ht]⟩
        rw [wireIn, if_pos rfl, ← ht, List.take_append_drop]
      · exact .inl ⟨by simp [← hp, hl], rfl, ht, by simp [checkResponse, checkPreamble, hl, hp, ht]⟩
  · exact .inl ⟨hl, by simp [checkResponse, hl]⟩

/-- R164: the checksum check either raises `ChecksumError` or writes the result. -/
theorem checkBody_cases (n : Nat) (body : List Byte) (s : State) :
    (crc5 body ≠ 0 ∧
      checkBody n body s = raise .checksumError (setIdx n (setCrc5 (crc5 body) s))) ∨
    (crc5 body = 0 ∧
      checkBody n body s = finish (.response (be32At body 0) (byteAt body 4) (byteAt body 5))
        (latchRes (be32At body 0) (byteAt body 4) (byteAt body 5)
          (setIdx n (setCrc5 (crc5 body) s)))) := by
  by_cases h : crc5 body = 0
  · exact .inr ⟨h, if_neg (not_not_intro h)⟩
  · exact .inl ⟨h, if_pos h⟩

/-- What the checks of a response leave alone. -/
theorem checkResponse_frame (w : List Byte) (s : State) :
    (checkResponse w s).cfgPre = s.cfgPre ∧ (checkResponse w s).crc16 = s.crc16 ∧
    (checkResponse w s).cmd = s.cmd ∧ (checkResponse w s).job = s.job ∧
    (checkResponse w s).txbuf = s.txbuf ∧ (checkResponse w s).txlen = s.txlen ∧
    (checkResponse w s).rxbuf = s.rxbuf ∧ (checkResponse w s).rxcnt = s.rxcnt ∧
    (checkResponse w s).bus = s.bus ∧ (checkResponse w s).pending = s.pending := by
  rcases checkResponse_cases w s with ⟨_, h⟩ | ⟨_, _, _, h⟩ | ⟨n, body, _, _, _, h⟩ <;> rw [h]
  · simp
  · simp
  · rcases checkBody_cases n body s with ⟨_, h⟩ | ⟨_, h⟩ <;> rw [h] <;> simp

/-- What a `RECV` leaves alone, and what it does to the transport. -/
theorem receive_frame (s : State) :
    (receive s).cfgPre = s.cfgPre ∧ (receive s).crc16 = s.crc16 ∧ (receive s).cmd = s.cmd ∧
    (receive s).job = s.job ∧ (receive s).txbuf = s.txbuf ∧ (receive s).txlen = s.txlen ∧
    (receive s).bus = (busRead (respLen s.cfgPre) s.bus).2 ∧
    (receive s).pending = s.pending := by
  simp only [receive, setIdx_cfgPre, clearValid_cfgPre, setIdx_bus, clearValid_bus]
  cases (busRead (respLen s.cfgPre) s.bus).1 with
  | timeout => simp [endRecv]
  | err e => simp [endRecv]
  | never => simp [endRecv]
  | ok w =>
    have h := checkResponse_frame w
      (storeRx w (setBus (busRead (respLen s.cfgPre) s.bus).2 (setIdx 0 (clearValid s))))
    simp only [endRecv]
    simp_all

/-! ### Control and job sends -/

/-- R26, R131: what a control send does before its transmission. -/
theorem sendControl_eq (op : Byte) (b : Bool) (chip reg : Byte) (val : Option Word) (s : State) :
    sendControl op b chip reg val s
      = transmit (encodeCtl op b chip reg ((val.map be32).getD []))
          (setCrc5 (crc5 (ctlHead op b chip reg ((val.map be32).getD [])))
            (latchCmd op b chip reg val (clearValid s))) := by
  cases val <;> rfl

/-- R150, R153: a job send is refused by its count, or transmitted. -/
theorem sendJob_cases (jobid : Byte) (nonce nbits ntime merkle : Word) (mids : List Midstate)
    (s : State) :
    ((mids.length < 1 ∨ mids.length > 4) ∧
      sendJob jobid nonce nbits ntime merkle mids s
        = refuseDescriptor (.midstateCount mids.length) s) ∨
    ((1 ≤ mids.length ∧ mids.length ≤ 4) ∧
      sendJob jobid nonce nbits ntime merkle mids s
        = transmit (encodeJob Config.crc16 jobid nonce nbits ntime merkle mids)
            (setCrc16 (crc16Register Config.crc16 (jobHead jobid nonce nbits ntime merkle mids))
              (latchJob jobid nonce nbits ntime merkle mids (clearValid s)))) := by
  by_cases h : mids.length < 1 ∨ mids.length > 4
  · exact .inl ⟨h, if_pos h⟩
  · exact .inr ⟨by omega, if_neg h⟩

/-! ### Frame lengths (R55, R84, R151) -/

theorem encodeCtl_length (op : Byte) (b : Bool) (chip reg : Byte) (payload : List Byte) :
    (encodeCtl op b chip reg payload).length = 5 + payload.length := by
  simp [encodeCtl, ctlHead]; omega

theorem encodeJob_length (p : Crc16Params) (jobid : Byte) (nonce nbits ntime merkle : Word)
    (mids : List Midstate) :
    (encodeJob p jobid nonce nbits ntime merkle mids).length = 22 + 32 * mids.length := by
  simp [encodeJob, jobHead, jobPayload]; omega

/-- R28: every frame fits `TXBUF`. -/
theorem wireOut_fits {body : List Byte} (pre : Bool) (h : body.length ≤ 150) :
    (wireOut pre body).length ≤ txSize := by
  rw [wireOut_length]; unfold txSize; split <;> omega

/-! ### The step -/

/-- R12, R21: what a step can do. -/
theorem step_cases (s : State) :
    (s.pending = [] ∧ step s = .next s) ∨
    (∃ r rest i, s.pending = r :: rest ∧ decode r = .ok i ∧ step s = exec i (setPending rest s)) ∨
    (∃ r rest why, s.pending = r :: rest ∧ decode r = .error why ∧
      step s = takeReject why (setPending rest s)) := by
  cases hp : s.pending with
  | nil => exact .inl ⟨rfl, by simp [step, hp]⟩
  | cons r rest =>
    right
    cases hd : decode r with
    | ok i => exact .inl ⟨r, rest, i, rfl, hd, by simp [step, hp, hd]⟩
    | error why => exact .inr ⟨r, rest, why, rfl, hd, by simp [step, hp, hd]⟩

/-- What an operation's meaning is built from: an update of the state that is made when the block is
idle, or a frame that arrives. -/
def updateOf : Instr → State → State
  | .setaddr b chip reg => sendControl 0x40 b chip reg none
  | .writereg b chip reg value => sendControl 0x41 b chip reg (some value)
  | .readreg b chip reg => sendControl 0x42 b chip reg none
  | .inactive b chip reg => sendControl 0x43 b chip reg none
  | .sendjob jobid nonce nbits ntime merkle mids => sendJob jobid nonce nbits ntime merkle mids
  | .resp value chip reg f ck => fun s => arrive (wireIn s.cfgPre (respBody value chip reg f ck)) s
  | .recv => receive
  | .crc5 bytes => fun s => finish (.crc5 (crc5 bytes)) (setCrc5 (crc5 bytes) s)
  | .crc16 bytes => fun s =>
      finish (.crc16 (crc16 bytes)) (setCrc16 (crc16Register Config.crc16 bytes) s)
  | .cfgpre p => fun s => finish .nothing (setPre p s)

/-- Every operation of the block is accepted when the block is idle, and makes its update. -/
theorem exec_operation {i : Instr} (h : ∀ v c g f k, i ≠ .resp v c g f k) (s : State) :
    exec i s = whenIdle (updateOf i) s := by
  cases i with
  | resp v c g f k => exact absurd rfl (h v c g f k)
  | _ => rfl

/-- A response frame arrives, whatever the block is doing. -/
theorem exec_arrival (v : Word) (c g : Byte) (f : BitVec 3) (k : BitVec 5) (s : State) :
    exec (.resp v c g f k) s = .next (updateOf (.resp v c g f k) s) := rfl

/-- Every operation answers the update of its instruction as the next state, or is refused because
another operation has not ended; a response frame is never refused. -/
theorem exec_cases (i : Instr) (s : State) :
    (exec i s = .next (updateOf i s) ∧ (s.mode = .idle ∨ ∃ v c g f k, i = .resp v c g f k)) ∨
    (exec i s = .refused .operationInProgress ∧ s.mode ≠ .idle) := by
  by_cases hr : ∃ v c g f k, i = .resp v c g f k
  · obtain ⟨v, c, g, f, k, rfl⟩ := hr
    exact .inl ⟨exec_arrival v c g f k s, .inr ⟨v, c, g, f, k, rfl⟩⟩
  · rw [exec_operation fun v c g f k h => hr ⟨v, c, g, f, k, h⟩]
    rcases whenIdle_cases (updateOf i) s with ⟨hm, h⟩ | ⟨hm, h⟩
    · exact .inl ⟨h, .inl hm⟩
    · exact .inr ⟨h, hm⟩

theorem exec_next {i : Instr} {s t : State} (h : exec i s = .next t) : t = updateOf i s := by
  rcases exec_cases i s with ⟨he, _⟩ | ⟨he, _⟩ <;> rw [he] at h
  · injection h with h; exact h.symm
  · simp at h

end Sys2Proof.Machine
end

