-- ==== Sys2Proof/Laws/PerInstr.lean ====
section
/-!
SUPPORT. Statements for all operations, one lemma per constructor of Instr: the request that stands for
an admitted operation at the port is read back as that operation, every operand at every value (R89,
R92(c), R94).
-/

namespace Sys2Proof.Laws

open Machine

/-- The request of an admitted operation decodes to it. -/
def RequestRoundTrip.Statement (i : Instr) : Prop := i.wf = true → decode (encode i) = .ok i

/-- R91, R97: an image whose byte 0 spells a command is decoded by that command's format. -/
theorem decodeCommand_of (op : Byte) (t : List Byte) (c : Command) (h : op ≠ 0x31)
    (hc : commandOf op = some c) :
    decodeCommand (op :: t) = decodeAs c (op :: t) := by
  rw [decodeCommand, if_neg h, hc]

/-- R87: the opcode byte of each control command spells it, with its broadcast flag in bit 4. -/
theorem opByte_spells (b : Bool) :
    (opByte 0x40 b ≠ 0x31 ∧ commandOf (opByte 0x40 b) = some .setaddr ∧
      broadcastOf (opByte 0x40 b) = b) ∧
    (opByte 0x41 b ≠ 0x31 ∧ commandOf (opByte 0x41 b) = some .writereg ∧
      broadcastOf (opByte 0x41 b) = b) ∧
    (opByte 0x42 b ≠ 0x31 ∧ commandOf (opByte 0x42 b) = some .readreg ∧
      broadcastOf (opByte 0x42 b) = b) ∧
    (opByte 0x43 b ≠ 0x31 ∧ commandOf (opByte 0x43 b) = some .inactive ∧
      broadcastOf (opByte 0x43 b) = b) := by
  cases b <;> decide

/-- R81: a `C0` image read back, whatever its length byte and trailer. -/
theorem decodeC0_image (mk : Bool → Byte → Byte → Instr) (op len chip reg ck : Byte) :
    decodeC0 mk [op, len, chip, reg, ck] = .ok (mk (broadcastOf op) chip reg) := rfl

theorem RequestRoundTrip.setaddr (b : Bool) (chip reg : Byte) :
    RequestRoundTrip.Statement (.setaddr b chip reg) := fun _ => by
  obtain ⟨h31, hc, hb⟩ := (opByte_spells b).1
  exact (decodeCommand_of _ _ _ h31 hc).trans ((decodeC0_image _ _ _ chip reg _).trans (by rw [hb]))

theorem RequestRoundTrip.readreg (b : Bool) (chip reg : Byte) :
    RequestRoundTrip.Statement (.readreg b chip reg) := fun _ => by
  obtain ⟨h31, hc, hb⟩ := (opByte_spells b).2.2.1
  exact (decodeCommand_of _ _ _ h31 hc).trans ((decodeC0_image _ _ _ chip reg _).trans (by rw [hb]))

theorem RequestRoundTrip.inactive (b : Bool) (chip reg : Byte) :
    RequestRoundTrip.Statement (.inactive b chip reg) := fun _ => by
  obtain ⟨h31, hc, hb⟩ := (opByte_spells b).2.2.2
  exact (decodeCommand_of _ _ _ h31 hc).trans ((decodeC0_image _ _ _ chip reg _).trans (by rw [hb]))

/-- R83: a `CW` image read back, whatever its length byte and trailer. -/
theorem decodeCW_image (op len chip reg ck : Byte) (value : Word) :
    decodeCW ([op, len, chip, reg] ++ be32 value ++ [ck])
      = .ok (.writereg (broadcastOf op) chip reg value) := by
  have h : be32At ([op, len, chip, reg] ++ be32 value ++ [ck]) 4 = value := append_extracts value
  have h5 : ([op, len, chip, reg] ++ be32 value ++ [ck]).length = 9 := rfl
  rw [decodeCW, if_pos h5, h]
  rfl

theorem RequestRoundTrip.writereg (b : Bool) (chip reg : Byte) (value : Word) :
    RequestRoundTrip.Statement (.writereg b chip reg value) := fun _ => by
  obtain ⟨h31, hc, hb⟩ := (opByte_spells b).2.1
  exact (decodeCommand_of _ _ _ h31 hc).trans
    ((decodeCW_image _ _ chip reg _ value).trans (by rw [hb]))

/-- R85: a job image with a whole number of midstates read back, whatever its length byte and
trailer. -/
theorem decodeJ_image (len jobid : Byte) (nonce nbits ntime merkle : Word) (mids : List Midstate)
    (ckh ckl : Byte) (h : mids.length < 256) :
    decodeJ ([0x21, len, jobid, BitVec.ofNat 8 mids.length]
        ++ jobPayload nonce nbits ntime merkle mids ++ [ckh, ckl])
      = .ok (.sendjob jobid nonce nbits ntime merkle mids) := by
  have hn : (BitVec.ofNat 8 mids.length).toNat = mids.length := by simp; omega
  have hw : [0x21, len, jobid, BitVec.ofNat 8 mids.length]
      ++ jobPayload nonce nbits ntime merkle mids ++ [ckh, ckl]
      = ([0x21, len, jobid, BitVec.ofNat 8 mids.length] ++ (le32 nonce ++ (le32 nbits ++
          (le32 ntime ++ le32 merkle)))) ++ (midstateBytes mids ++ [ckh, ckl]) := by
    simp [jobPayload]
  have hm := midstatesAt_bytes ([0x21, len, jobid, BitVec.ofNat 8 mids.length] ++ (le32 nonce ++
    (le32 nbits ++ (le32 ntime ++ le32 merkle)))) [ckh, ckl] mids rfl
  rw [hw, decodeJ]
  have h3 : byteAt (([0x21, len, jobid, BitVec.ofNat 8 mids.length] ++ (le32 nonce ++ (le32 nbits ++
      (le32 ntime ++ le32 merkle)))) ++ (midstateBytes mids ++ [ckh, ckl])) 3
      = BitVec.ofNat 8 mids.length := rfl
  rw [h3, hn, if_pos (by simp; omega), hm]
  congr 1
  exact congrArg₂ (fun (f : Word → Word → List Midstate → Instr) g => f g.1 g.2 mids)
    (congrArg₂ (fun a b => Instr.sendjob jobid a b) (append_extracts nonce) (append_extracts nbits))
    (congrArg₂ Prod.mk (append_extracts ntime) (append_extracts merkle))

theorem RequestRoundTrip.sendjob (jobid : Byte) (nonce nbits ntime merkle : Word)
    (mids : List Midstate) :
    RequestRoundTrip.Statement (.sendjob jobid nonce nbits ntime merkle mids) := fun hwf => by
  have hlen : mids.length ≤ 4 := by simp [Instr.wf] at hwf; exact hwf.2
  exact (decodeCommand_of 0x21 _ .sendjob (by decide) (by decide)).trans
    (decodeJ_image _ jobid nonce nbits ntime merkle mids _ _ (by omega))

theorem RequestRoundTrip.resp (value : Word) (chip reg : Byte) (f : BitVec 3) (ck : BitVec 5) :
    RequestRoundTrip.Statement (.resp value chip reg f ck) := fun _ => by
  show Except.ok (Instr.resp (be32At (be32 value ++ [chip, reg, f ++ ck]) 0) chip reg
    ((f ++ ck : Byte).extractLsb' 5 3) ((f ++ ck : Byte).extractLsb' 0 5)) = _
  rw [be32At_be32, extract_append_high, extract_append_low]

theorem RequestRoundTrip.recv : RequestRoundTrip.Statement .recv := fun _ => rfl

theorem RequestRoundTrip.crc5 (bytes : List Byte) :
    RequestRoundTrip.Statement (.crc5 bytes) := fun _ => rfl

theorem RequestRoundTrip.crc16 (bytes : List Byte) :
    RequestRoundTrip.Statement (.crc16 bytes) := fun _ => rfl

theorem RequestRoundTrip.cfgpre (p : Bool) : RequestRoundTrip.Statement (.cfgpre p) := fun _ => rfl

end Sys2Proof.Laws
end

