-- ==== Sys2Proof/Tests/Slice0.lean ====
section
/-!
SUPPORT. Tests of one step or one function each, their expected results from 95_test_vectors.md or from
the rule named, and one witness for the hypotheses of each obligation.
-/

namespace Sys2Proof.Tests

open Sys2Proof Sys2Proof.Machine

/-! Each test's kernel evaluation takes a thread of its own when theorems are elaborated side by side;
one after another they stay within the memory the check allows. -/

set_option Elab.async false

/-! ### Small states -/

/-- An idle block with the given `CFG.PRE`, inbound stream and scripted bus side. -/
def idleAt (pre : Bool) (writes : List WriteAnswer) (inb : List Byte) (reads : List ReadAnswer) :
    State :=
  { State.reset with
    cfgPre := pre
    bus := { Bus.reset with inbound := inb, writeScript := writes, readScript := reads } }

/-- A block that has just sent nothing and can: the next write is accepted up to `n` bytes. -/
def senderAt (pre : Bool) (n : Nat) : State := idleAt pre [.ok n] [] []

/-- A block whose next read gives up to `n` bytes of `inb`. -/
def readerAt (pre : Bool) (inb : List Byte) (n : Nat) : State :=
  idleAt pre [] inb [⟨[], .data n⟩]

/-- A part of the next state, where there is one. -/
def see {α : Type} (part : State → α) : Result State → Option α
  | .next t => some (part t)
  | .fault _ => none
  | .refused _ => none

/-- The name of a refusal, where there is one. -/
def refusalOf {α : Type} : Result α → Option Refusal
  | .next _ => none
  | .fault _ => none
  | .refused r => some r

/-! ### Well-formedness: a term each check refuses (R92(a), R153(a), R164) -/

/-- 95_test_vectors 2.5, `M0`: byte `k` is `k`. -/
def m0 : Midstate := Vector.ofFn fun k => BitVec.ofNat 8 k.val

theorem test_wf_refuses_no_midstate : (Instr.sendjob 8 0 0 0 0 []).wf = false := by decide

theorem test_wf_refuses_five_midstates :
    (Instr.sendjob 8 0 0 0 0 [m0, m0, m0, m0, m0]).wf = false := by decide

theorem test_wf_takes_one_and_four_midstates :
    (Instr.sendjob 8 0 0 0 0 [m0]).wf = true ∧
    (Instr.sendjob 8 0 0 0 0 [m0, m0, m0, m0]).wf = true := by decide

/-- 95_test_vectors 2.7: the trailer 0x11 built the outgoing way does not pass, 0x1C does. -/
theorem test_wf_checks_response :
    (Instr.resp 0x12345678 0x04 0x18 0 0x11).wf = false ∧
    (Instr.resp 0x12345678 0x04 0x18 0 0x1C).wf = true := by decide +kernel

theorem test_wf_takes_the_rest :
    (Instr.setaddr true 0xFF 0xFF).wf = true ∧ (Instr.writereg false 0 0 0).wf = true ∧
    (Instr.readreg true 0 0).wf = true ∧ (Instr.inactive false 0 0).wf = true ∧
    Instr.recv.wf = true ∧ (Instr.crc5 []).wf = true ∧ (Instr.crc16 []).wf = true ∧
    (Instr.cfgpre true).wf = true := by decide

/-! ### Decoding: words written out from the encodings -/

/-- 95_test_vectors 2.2. -/
theorem test_decode_setaddr :
    decode (.command [0x40, 0x05, 0x08, 0x18, 0x10]) = .ok (.setaddr false 0x08 0x18) ∧
    decode (.command [0x50, 0x05, 0xFF, 0xFF, 0x13]) = .ok (.setaddr true 0xFF 0xFF) := by decide

/-- 95_test_vectors 2.3. -/
theorem test_decode_writereg :
    decode (.command [0x41, 0x09, 0x04, 0x18, 0x12, 0x34, 0x56, 0x78, 0x19])
      = .ok (.writereg false 0x04 0x18 0x12345678) ∧
    decode (.command [0x51, 0x09, 0x00, 0x18, 0x00, 0x00, 0x3A, 0x01, 0x18])
      = .ok (.writereg true 0x00 0x18 0x00003A01) := by decide

/-- 95_test_vectors 2.2. -/
theorem test_decode_readreg :
    decode (.command [0x42, 0x05, 0x0C, 0x44, 0x19]) = .ok (.readreg false 0x0C 0x44) ∧
    decode (.command [0x52, 0x05, 0x00, 0x00, 0x0A]) = .ok (.readreg true 0x00 0x00) := by decide

/-- 95_test_vectors 2.2. -/
theorem test_decode_inactive :
    decode (.command [0x43, 0x05, 0x04, 0x00, 0x18]) = .ok (.inactive false 0x04 0x00) ∧
    decode (.command [0x53, 0x05, 0x08, 0x18, 0x0F]) = .ok (.inactive true 0x08 0x18) := by decide

/-- 95_test_vectors 2.5: the 54 bytes of J1. -/
def j1 : List Byte :=
  [0x21, 0x36, 0x08, 0x01, 0x00, 0x00, 0x00, 0x00, 0xB4, 0x3A, 0x0E, 0x17, 0x00, 0xF1, 0x53, 0x65,
   0x78, 0x56, 0x34, 0x12]
  ++ [0x00, 0x01, 0x02, 0x03, 0x04, 0x05, 0x06, 0x07, 0x08, 0x09, 0x0A, 0x0B, 0x0C, 0x0D, 0x0E, 0x0F,
      0x10, 0x11, 0x12, 0x13, 0x14, 0x15, 0x16, 0x17, 0x18, 0x19, 0x1A, 0x1B, 0x1C, 0x1D, 0x1E, 0x1F]
  ++ [0xFB, 0x4B]

theorem test_decode_sendjob :
    decode (.command j1) = .ok (.sendjob 0x08 0 0x170E3AB4 0x6553F100 0x12345678 [m0]) := by
  decide +kernel

/-- 95_test_vectors 2.7, `f = 2`. -/
theorem test_decode_response :
    decode (.incoming [0x12, 0x34, 0x56, 0x78, 0x04, 0x18, 0x56])
      = .ok (.resp 0x12345678 0x04 0x18 2 0x16) := by decide

theorem test_decode_port_operations :
    decode .recv = .ok .recv ∧ decode (.crc5 [0x52]) = .ok (.crc5 [0x52]) ∧
    decode (.crc16 [0x21]) = .ok (.crc16 [0x21]) ∧ decode (.cfgpre true) = .ok (.cfgpre true) := by
  decide

/-- R91, R92(a), D5, D6: what the port refuses, each by its name. -/
theorem test_decode_refusals :
    decode (.command [0x31, 0x36, 0x08, 0x01]) = .error (.descriptor .broadcastJob) ∧
    decode (.command [0x44, 0x05, 0x00, 0x00, 0x00]) = .error (.descriptor (.unknownOpcode 0x44)) ∧
    decode (.command [0x42, 0x06, 0x00, 0x00, 0x00, 0x00]) = .error (.descriptor (.payloadSize 1)) ∧
    decode (.command [0x41, 0x05, 0x00, 0x00, 0x00]) = .error (.descriptor (.payloadSize 0)) ∧
    decode (.command [0x40, 0x05, 0x00]) = .error (.descriptor (.malformed 3)) ∧
    decode (.incoming [0x12, 0x34]) = .error (.noise [0x12, 0x34]) := by decide

/-- R97: the table's words, bit 0 the least significant bit of the first byte. -/
theorem test_table_words :
    decodeTableWord 8 0x40 = some (.setaddr false 0 0) ∧
    decodeTableWord 32 0x18080552 = some (.readreg true 0x08 0x18) ∧
    decodeTableWord 8 0x21 = some (.sendjob 0 0 0 0 0 []) ∧
    decodeTableWord 8 0x31 = none := by decide

/-! ### The strict frame decoder (R94) -/

/-- 95_test_vectors 2.3: the frame with preamble; a wrong trailer; a missing preamble. -/
theorem test_decodeFrame :
    decodeFrame .ccittFalse true
        [0x55, 0xAA, 0x41, 0x09, 0x0C, 0x3C, 0x80, 0x00, 0x8B, 0x00, 0x12]
      = .ok (.writereg false 0x0C 0x3C 0x80008B00) ∧
    decodeFrame .ccittFalse false [0x42, 0x05, 0x04, 0x00, 0x12] = .error .trailer ∧
    decodeFrame .ccittFalse true [0x42, 0x05, 0x04, 0x00, 0x11] = .error .noPreamble := by
  decide +kernel

/-! ### Checksums -/

/-- 95_test_vectors 2.1. -/
theorem test_crc5_vectors :
    crc5 [] = 0x1F ∧ crc5 [0x00] = 0x0F ∧ crc5 [0xFF] = 0x1B ∧ crc5 [0x52, 0x05, 0x00, 0x00] = 0x0A ∧
    crc5 [0x31, 0x32, 0x33, 0x34, 0x35, 0x36, 0x37, 0x38, 0x39] = 0x0F ∧
    crc5 [0x13, 0x87, 0x90, 0x00, 0x00, 0x00, 0x07] = 0 := by decide +kernel

/-- 95_test_vectors 2.6: six variants of the polynomial over "123456789". -/
theorem test_crc16_vectors :
    let s : List Byte := [0x31, 0x32, 0x33, 0x34, 0x35, 0x36, 0x37, 0x38, 0x39]
    crc16With .ccittFalse s = 0x29B1 ∧ crc16With ⟨0x0000, false, false, 0⟩ s = 0x31C3 ∧
    crc16With ⟨0x1D0F, false, false, 0⟩ s = 0xE5CC ∧
    crc16With ⟨0xFFFF, false, false, 0xFFFF⟩ s = 0xD64E ∧
    crc16With ⟨0x0000, true, true, 0⟩ s = 0x2189 ∧
    crc16With ⟨0xFFFF, true, true, 0xFFFF⟩ s = 0x906E := by decide +kernel

/-- R116: the register over a piece of a sequence. -/
def crc16Piece (r : BitVec 16) (s : List Byte) : BitVec 16 := (s.flatMap bitsOfByte).foldl step16 r

theorem test_crc16_pieces :
    crc16Piece 0xFFFF (j1.take 13) = 0xBD9D ∧ crc16Piece 0xBD9D ((j1.drop 13).take 13) = 0x0BB5 := by
  decide +kernel

/-- 95_test_vectors 2.5: the trailer of J1 under the default variant, the register carried over four
pieces of 13 bytes. -/
theorem test_crc16_job_trailer :
    crc16Piece 0x0BB5 ((j1.drop 26).take 13) = 0x46A4 ∧
    be16 (crc16Piece 0x46A4 ((j1.drop 39).take 13)) = [0xFB, 0x4B] := by decide +kernel

/-! ### One step of each operation -/

/-- 95_test_vectors 2.2. -/
theorem test_setaddr :
    see (fun t => (t.bus.outbound, t.status, t.mode)) (exec (.setaddr false 0x08 0x18) (senderAt false 5))
      = some ([0x40, 0x05, 0x08, 0x18, 0x10], 0, .idle) := by decide +kernel

/-- 95_test_vectors, cross-check: `55 AA 40 05 00 00 1C`; the preamble is outside the CRC. -/
theorem test_setaddr_preamble :
    see (fun t => t.bus.outbound) (exec (.setaddr false 0 0) (senderAt true 7))
      = some [0x55, 0xAA, 0x40, 0x05, 0x00, 0x00, 0x1C] := by decide +kernel

/-- 95_test_vectors 2.3, program P2 step 1. -/
theorem test_writereg :
    see (fun t => (t.bus.outbound, t.cmd.val)) (exec (.writereg false 0x0C 0x3C 0x80008B00) (senderAt true 11))
      = some ([0x55, 0xAA, 0x41, 0x09, 0x0C, 0x3C, 0x80, 0x00, 0x8B, 0x00, 0x12], 0x80008B00) := by
  decide +kernel

/-- 95_test_vectors 2.3: the corner case with trailer 0. -/
theorem test_writereg_trailer_zero :
    see (fun t => t.bus.outbound) (exec (.writereg true 0 0 0) (senderAt false 9))
      = some [0x51, 0x09, 0x00, 0x00, 0x00, 0x00, 0x00, 0x00, 0x00] := by decide +kernel

/-- 95_test_vectors, program P1 step 1. -/
theorem test_readreg :
    see (fun t => (t.bus.outbound, t.crc5, t.res.valid))
      (exec (.readreg true 0 0) { senderAt false 5 with res := ⟨1, 2, 3, true⟩ })
      = some ([0x52, 0x05, 0x00, 0x00, 0x0A], 0x0A, false) := by decide +kernel

/-- R57, R208: a write of 3 of 5 bytes. -/
theorem test_readreg_short_write :
    see (fun t => (t.status, t.info, t.bus.outbound)) (exec (.readreg true 0 0) (senderAt false 3))
      = some (5, .error (.shortWrite 3), [0x52, 0x05, 0x00]) := by decide +kernel

/-- 95_test_vectors 2.2. -/
theorem test_inactive :
    see (fun t => (t.bus.outbound, t.txlen)) (exec (.inactive true 0x08 0x18) (senderAt false 5))
      = some ([0x53, 0x05, 0x08, 0x18, 0x0F], 5) := by decide +kernel

/-- R207, R208: the transport's own error, unchanged. -/
theorem test_inactive_write_error :
    see (fun t => (t.status, t.info, t.mode)) (exec (.inactive true 0 0) (idleAt false [.err 7 2] [] []))
      = some (5, .error (.transport 7), .idle) := by decide +kernel

/-- 95_test_vectors 2.5: the first 20 bytes of J1 on the bus; the trailer rests on a parameter. -/
theorem test_sendjob :
    see (fun t => (t.bus.outbound.take 20, t.job.nmid))
      (exec (.sendjob 0x08 0 0x170E3AB4 0x6553F100 0x12345678 [m0]) (senderAt false 54))
      = some (j1.take 20, 1) := by decide +kernel

/-- 95_test_vectors, program P3 step 2: no midstate. -/
theorem test_sendjob_refused :
    see (fun t => (t.status, t.info, t.returned, t.bus.outbound))
        (exec (.sendjob 0x10 0 0 0 0 []) (senderAt false 54))
      = some (6, .reason (.midstateCount 0), .raised (.descriptorError (.midstateCount 0)), []) := by
  decide +kernel

/-- R166: the frame arrives behind what waits, `AA 55` in front. -/
theorem test_response_arrives :
    see (fun t => t.bus.inbound) (exec (.resp 0x12345678 0x04 0x18 0 0x1C) (idleAt true [] [0xEE] []))
      = some [0xEE, 0xAA, 0x55, 0x12, 0x34, 0x56, 0x78, 0x04, 0x18, 0x1C] := by decide +kernel

/-- 95_test_vectors 2.7: the triple, and the byte behind the frame left on the stream. -/
theorem test_recv :
    see (fun t => (t.returned, t.res.valid, t.bus.inbound))
      (exec .recv (readerAt false [0x00, 0x00, 0xAB, 0xCD, 0x0C, 0x44, 0x19, 0x77] 7))
      = some (.response 0x0000ABCD 0x0C 0x44, true, [0x77]) := by decide +kernel

/-- 95_test_vectors 2.7: the preamble is checked before the CRC. -/
theorem test_recv_preamble_first :
    see (fun t => (t.status, t.res.valid))
      (exec .recv (readerAt true [0xAB, 0x55, 0x12, 0x34, 0x56, 0x78, 0x04, 0x18, 0x1D] 9))
      = some (2, false) := by decide +kernel

/-- 95_test_vectors, program P4 step 7: the value returned, `RES.VALID` kept. -/
theorem test_crc5_operation :
    see (fun t => (t.returned, t.crc5, t.res.valid))
      (exec (.crc5 [0x52, 0x05, 0x00, 0x00]) { senderAt true 0 with res := ⟨1, 2, 3, true⟩ })
      = some (.crc5 0x0A, 0x0A, true) := by decide +kernel

/-- R116: the value the host gets stands behind the parameters; for no byte it is the initial value
finished. -/
theorem test_crc16_operation :
    see (fun t => (t.returned, t.crc16, t.status)) (exec (.crc16 []) (senderAt true 0))
      = some (.crc16 (crc16Finish Config.crc16 Config.crc16.init), Config.crc16.init, 0) := rfl

/-- R140. -/
theorem test_cfgpre :
    see (fun t => (t.cfgPre, t.status, t.bus.outbound)) (exec (.cfgpre true) (senderAt false 0))
      = some (true, 0, []) := by decide +kernel

/-- R33, R63, U14: an operation while another has not ended. -/
theorem test_busy_is_refused :
    refusalOf (exec (.cfgpre true) { senderAt false 0 with mode := .rx }) = some .operationInProgress :=
  by decide +kernel

/-- The word laid at the port runs as the next step. -/
theorem test_step_runs_placed_word :
    see (fun t => (t.bus.outbound, t.pending)) (step ((senderAt false 5).withFetchWord 8 0x43))
      = some ([0x43, 0x05, 0x00, 0x00, 0x07], []) := by decide +kernel

/-- R171, U9: the two faults of a buffer read. -/
theorem test_buffer_read_faults :
    memRead .tx 152 1 State.reset = .fault (.noSuchIndex 152) ∧
    memRead .rx 0 1 State.reset = .fault (.unwritten 0) := ⟨rfl, rfl⟩

/-! ### Reset and kinds -/

/-- R37: reset writes none of the CRC registers, and `RES` but for `VALID` stays. -/
theorem test_reset_keeps_scratch :
    (resetBlock { senderAt false 5 with crc5 := 9, res := ⟨1, 2, 3, true⟩, status := 4 }).crc5 = 9 ∧
    (resetBlock { senderAt false 5 with crc5 := 9, res := ⟨1, 2, 3, true⟩, status := 4 }).res
      = ⟨1, 2, 3, false⟩ := by decide

/-- R213: a timeout is a fault, a refused job is refused. -/
theorem test_kinds :
    kindOf (exec .recv (idleAt false [] [] [⟨[], .timeout⟩])) = some .fault ∧
    kindOf (exec (.sendjob 0 0 0 0 0 []) (senderAt false 54)) = some .refused ∧
    kindOf (exec (.crc5 []) (senderAt false 0)) = none := by decide +kernel

/-! ### The controller (95_test_vectors, S4 to S7) -/

/-- A vocabulary for tests; every number in it is a placeholder (N5, N6, N10, N11). -/
def vocabulary : Vocabulary :=
  { times := { tRdto := 100, tSetaddr := 10, tInit := fun k => k, tBaud := 20 },
    raChipAddress := 0, raCoreRegisterControl := 0x3C, raCoreRegisterValue := 0x40,
    raMiscControl := 0x18, raFastUart := 0x28, raPll := fun k => BitVec.ofNat 8 (0x60 + k.val),
    raTicketMask := 0x14, raClockOrdering := fun k => BitVec.ofNat 8 (0x80 + k),
    raOrderedClockEnable := 0x20, inactiveChip := 0, inactiveReg := 0, setaddrReg := 0, initChip := 0,
    initClockOrdering := [(0, 0)], initOrderedClock := [1], initCoreControl := [2],
    initTicketMask := [0xFF], initMisc := [3], registerSet := [0], unknownSet := [5, 6],
    coreRegisterSet := [0], ctl := fun _ _ => 0, echoedCore := fun _ => 0, coreValue := fun _ => 7,
    productWidth := 64, pllOverflow := fun _ => 0, pll3Config := 0, pll3Broadcast := true,
    pll3Chip := 0, fastUartConfig := 0, fastUartBroadcast := true, fastUartChip := 0,
    derivedClock := 100000000,
    misc := { low := fun k => ⟨8 + k.val, by omega⟩, high := fun k => ⟨24 + k.val, by omega⟩, speed := 16 },
    miscChip := 0 }

/-- A controller with `chips` on an idle block. -/
def controllerOn (chips : List Chip) (s : State) : Controller :=
  { chain := { newChain s.cfgPre 25000000 with chips := chips }, block := s, done := [] }

/-- R231: a new chain. -/
theorem test_newController :
    (newController true 25000000).chain.stage = .unconfigured ∧
    (newController true 25000000).chain.chips = [] ∧ (newController true 25000000).block.cfgPre = true :=
  ⟨rfl, rfl, rfl⟩

/-- R237, D13: the default of `T_INACTIVE`. -/
theorem test_tInactive_default : vocabulary.times.tInactive = 30 := rfl

/-- S4. -/
theorem test_pllFrequency :
    pllFromRaw 64 (fun _ => 0) 0xC0700111 25000000 = .ok 2800000000 ∧
    pllFromRaw 64 (fun _ => 0) 0x40700111 25000000 = .ok 0 ∧
    pllFromRaw 64 (fun _ => 0) 0xC0700000 25000000 = .error .arithmetic := by decide

/-- A response of a chip at address 0 (95_test_vectors, P1). -/
def answer0 : List Byte := [0x13, 0x87, 0x90, 0x00, 0x00, 0x00, 0x07]

/-- S5: two responses, then a timeout: two chips. -/
theorem test_discoverLoop :
    (discoverLoop vocabulary 3 (controllerOn [] (idleAt false [] (answer0 ++ answer0)
        [⟨[], .data 7⟩, ⟨[], .data 7⟩, ⟨[], .timeout⟩]))).2.chain.chips
      = [newChip vocabulary 0x13879000, newChip vocabulary 0x13879000] := by decide +kernel

/-- S5: a nonzero chip address aborts, and the chip found before stays (R190). -/
theorem test_discoverLoop_abort :
    ((discoverLoop vocabulary 3 (controllerOn [] (idleAt false []
        (answer0 ++ [0x13, 0x87, 0x90, 0x04, 0x04, 0x00, 0x13])
        [⟨[], .data 7⟩, ⟨[], .data 7⟩]))).1,
     (discoverLoop vocabulary 3 (controllerOn [] (idleAt false []
        (answer0 ++ [0x13, 0x87, 0x90, 0x04, 0x04, 0x00, 0x13])
        [⟨[], .data 7⟩, ⟨[], .data 7⟩]))).2.chain.chips)
      = (.error .protocolMismatch, [newChip vocabulary 0x13879000]) := by decide +kernel

/-- Three discovered chips. -/
def threeChips : List Chip := List.replicate 3 (newChip vocabulary 0x13879000)

/-- S6: three chips, increment 4; increment 0. -/
theorem test_assignAddresses :
    ((assignAddresses vocabulary 4
        (controllerOn threeChips (idleAt false [.ok 5, .ok 5, .ok 5] [] []))).2.chain.chips.map
      (chipAddress vocabulary)) = [0, 4, 8] ∧
    (assignAddresses vocabulary 0 (controllerOn threeChips (senderAt false 5))).1
      = .error .configuration := by decide +kernel

/-- R183, R190: the second `SETADDR` fails; the first chip keeps its new address in the cache. -/
theorem test_assignAddresses_partial :
    ((assignAddresses vocabulary 4
        (controllerOn (threeChips.map (readdress vocabulary 9))
          (idleAt false [.ok 5, .err 1 0] [] []))).2.chain.chips.map (chipAddress vocabulary))
      = [0, 9, 9] := by decide +kernel

/-- R182, R237: three `INACTIVE.B`, 30 ms after each. -/
theorem test_resetAddressing :
    (resetAddressing vocabulary (controllerOn [] (idleAt false [.ok 5, .ok 5, .ok 5] [] []))).2.done
      = [.op (.inactive true 0 0), .delay 30, .op (.inactive true 0 0), .delay 30,
          .op (.inactive true 0 0), .delay 30] := by decide +kernel

/-- R180: `Init` on a chain that is ready. -/
theorem test_initChain_again :
    (initChain vocabulary 9 4
        { controllerOn [] State.reset with chain := { newChain false 1 with stage := .ready } }).1
      = .error .alreadyConfigured := rfl

/-- R187, R244: a lone core-register read is remembered, here by a chip that does not answer. -/
theorem test_readCoreRegister_remembers :
    (readCoreRegister vocabulary 0 1 5
        (controllerOn [newChip vocabulary 0x13879000] (idleAt false [.ok 9] [] [⟨[], .timeout⟩]))).2.chain.chips.map
      Chip.lastCore = [some 5] := by decide +kernel

/-- R211, R246: a scan passes over a timeout and ends when a call hangs. -/
theorem test_readUnknownRegisters :
    (readUnknownRegisters vocabulary 0 (controllerOn threeChips
        (idleAt false [.ok 5, .ok 5] [] [⟨[], .timeout⟩, ⟨[], .timeout⟩]))).1
      = .ok [(5, .block .ioTimeout), (6, .block .ioTimeout)] ∧
    (readUnknownRegisters vocabulary 0 (controllerOn threeChips
        (idleAt false [.ok 5, .ok 5] [] [⟨[], .never 0⟩]))).1 = .error .blocked := by decide +kernel

/-- R189: the divider 0x1D9 is 11001 below and 1110 above; other bits stay, the high-speed bit is set. -/
theorem test_mergeMisc :
    mergeMisc vocabulary.misc 0x1D9 true 0x80000001 = 0x8E011901 ∧
    mergeMisc vocabulary.misc 0x1D9 false 0x80000001 = 0x8E001901 := by decide

/-- S7. -/
theorem test_setBaudrate_limits :
    (setBaudrate vocabulary 115199 (controllerOn [] (senderAt false 0))).1 = .error .range ∧
    (setBaudrate vocabulary 7000001 (controllerOn [] (senderAt false 0))).1 = .error .range ∧
    (setBaudrate vocabulary 115200 (controllerOn [] (senderAt false 0))).1 = .error .noChips := by
  decide +kernel

/-- R190, R189: the initialisation's write of `MiscControl` gives no chip a cache entry, so `miscOf` reads
the register, here from a chip that does not answer; the read's failure is its answer. -/
theorem test_write_populates_nothing :
    let c := controllerOn threeChips (idleAt false [.ok 9, .ok 9, .ok 9, .ok 9, .ok 9, .ok 5] []
      [⟨[], .timeout⟩])
    (initialise vocabulary c).1 = .ok () ∧
    (initialise vocabulary c).2.chain.chips = threeChips ∧
    (andThen (initialise vocabulary) (fun _ => miscOf vocabulary) c).1
      = .error (.block .ioTimeout) := by decide +kernel

/-- R239, R190: the delay and the switch come after the broadcast, and the caches hold the new value. -/
theorem test_changeSpeed :
    let c := controllerOn [cacheReg 0x18 0 (newChip vocabulary 0x13879000)] (senderAt false 9)
    ((changeSpeed vocabulary 1000000 c).2.done,
     (changeSpeed vocabulary 1000000 c).2.chain.chips.map fun chip => cached 0x18 chip.regs)
      = ([.op (.writereg true 0 0x18 0x1900), .delay 20, .transportSpeed 1000000], [some 0x1900]) := by
  decide +kernel

/-! ### Witnesses: the hypotheses of each obligation, met together

A witness at the smallest accepting count stands for every larger one. -/

/-- A job with `n` midstates. -/
def jobOf (n : Nat) : Instr := .sendjob 8 1 2 3 4 (List.replicate n m0)

theorem test_witness_FrameDecodeInvertsEncode :
    (jobOf 1).isWire = true ∧ (jobOf 1).wf = true ∧ (jobOf 4).wf = true ∧
    (Instr.setaddr true 0xFF 0xFF).isWire = true ∧ (Instr.setaddr true 0xFF 0xFF).wf = true := by
  decide

theorem test_witness_FrameDecodeIsExact :
    decodeFrame .ccittFalse false [0x51, 0x09, 0x00, 0x00, 0x00, 0x00, 0x00, 0x00, 0x00]
      = .ok (.writereg true 0 0 0) := by decide +kernel

theorem test_witness_OpcodeMapComplete :
    (jobOf 0).isWire = true ∧ (Instr.inactive true 0 0).isWire = true := by decide

theorem test_witness_OpcodeRowsDisjoint :
    (⟨.setaddr, 0x40, 0xEF⟩ : OpRow) ∈ opRows ∧
    (⟨.setaddr, 0x40, 0xEF⟩ : OpRow).selects 0x50 = true := by decide

theorem test_witness_OpcodeByteCarriesBroadcast :
    (0x40 : Byte) ∈ [0x40, 0x41, 0x42, (0x43 : Byte)] ∧
    (0x43 : Byte) ∈ [0x40, 0x41, 0x42, (0x43 : Byte)] := by decide

theorem test_witness_LengthByteCountsBody :
    (Instr.writereg true 1 2 3).isWire = true ∧ (Instr.writereg true 1 2 3).wf = true ∧
    (jobOf 1).isWire = true ∧ (jobOf 1).wf = true ∧ (jobOf 4).wf = true := by decide

/-- Both payload sizes, and clause (d): two commands with one frame. -/
theorem test_witness_ControlFrameShape :
    (0x43 : Byte) ∈ [0x40, 0x41, 0x42, (0x43 : Byte)] ∧
    ([] : List Byte).length = (if (0x43 : Byte) = 0x41 then 4 else 0) ∧
    (be32 5).length = (if (0x41 : Byte) = 0x41 then 4 else 0) ∧
    wireOut true (encodeCtl 0x41 true 1 2 (be32 5)) = wireOut true (encodeCtl 0x41 true 1 2 (be32 5)) :=
  ⟨by decide, by decide, by decide, rfl⟩

theorem test_witness_JobFrameLayout :
    1 ≤ [m0].length ∧ [m0].length ≤ 4 ∧ 1 ≤ [m0, m0, m0, m0].length ∧
    [m0, m0, m0, m0].length ≤ 4 := by decide

theorem test_witness_Crc5Linear : [true, false, true].length = [false, false, true].length := rfl

theorem test_witness_Crc5UndetectedPatterns :
    [true, false].length = [false, true].length ∧
    ([true, false, false, false, true].length ≤ 5 ∧ true ∈ [true, false, false, false, true]) ∧
    ([true].length ≤ 5 ∧ true ∈ [true]) ∧
    (0 < ([0x12] : List Byte).length ∧ 1 < ([0x12, 0x34] : List Byte).length) := by decide

theorem test_witness_CrcByteFormsAgree : Crc16Params.ccittFalse.refin = false := rfl

/-- The hypotheses of the four control sends, without and with preamble, at the smallest count. -/
theorem test_witness_ControlSends :
    ((senderAt false 5).mode = .idle ∧
      (senderAt false 5).AcceptsFrame (5 + if (senderAt false 5).cfgPre then 2 else 0)) ∧
    ((senderAt true 7).mode = .idle ∧
      (senderAt true 7).AcceptsFrame (5 + if (senderAt true 7).cfgPre then 2 else 0)) :=
  ⟨⟨rfl, 5, rfl, by decide⟩, rfl, 7, rfl, by decide⟩

theorem test_witness_WriteregSends :
    ((senderAt false 9).mode = .idle ∧
      (senderAt false 9).AcceptsFrame (9 + if (senderAt false 9).cfgPre then 2 else 0)) ∧
    ((senderAt true 11).mode = .idle ∧
      (senderAt true 11).AcceptsFrame (9 + if (senderAt true 11).cfgPre then 2 else 0)) :=
  ⟨⟨rfl, 9, rfl, by decide⟩, rfl, 11, rfl, by decide⟩

/-- One midstate without preamble, four with it. -/
theorem test_witness_SendjobSends :
    ((senderAt false 54).mode = .idle ∧ 1 ≤ [m0].length ∧ [m0].length ≤ 4 ∧
      (senderAt false 54).AcceptsFrame
        (22 + 32 * [m0].length + if (senderAt false 54).cfgPre then 2 else 0)) ∧
    ((senderAt true 152).mode = .idle ∧ [m0, m0, m0, m0].length ≤ 4 ∧
      (senderAt true 152).AcceptsFrame
        (22 + 32 * [m0, m0, m0, m0].length + if (senderAt true 152).cfgPre then 2 else 0)) :=
  ⟨⟨rfl, by decide, by decide, 54, rfl, by decide⟩, rfl, by decide, 152, rfl, by decide⟩

/-- A control command and the longest job. -/
theorem test_witness_SentBytesDecodeToCommand :
    ((Instr.readreg true 0 0).isWire = true ∧ (Instr.readreg true 0 0).wf = true ∧
      (senderAt true 7).mode = .idle ∧
      (senderAt true 7).AcceptsFrame (frameOf Config.crc16 true (.readreg true 0 0)).length) ∧
    ((jobOf 4).isWire = true ∧ (jobOf 4).wf = true ∧
      (senderAt true 152).AcceptsFrame (frameOf Config.crc16 true (jobOf 4)).length) :=
  ⟨⟨rfl, rfl, rfl, 7, rfl, by decide⟩, rfl, rfl, 152, rfl, by
    simp [frameOf, jobOf, bodyOf, encodeJob_length]⟩

/-- Another error, and a write one byte short. -/
theorem test_witness_SendErrorsAreIoErrors :
    ((Instr.readreg true 0 0).isWire = true ∧ (Instr.readreg true 0 0).wf = true ∧
      (idleAt false [.err 7 2] [] []).mode = .idle ∧
      (idleAt false [.err 7 2] [] []).bus.nextWrite = .err 7 2) ∧
    ((senderAt false 4).mode = .idle ∧ (senderAt false 4).bus.nextWrite = .ok 4 ∧
      4 < (frameOf Config.crc16 false (.readreg true 0 0)).length) := by
  refine ⟨⟨rfl, rfl, rfl, rfl⟩, rfl, rfl, by decide⟩

theorem test_witness_JobCountOutsideRangeRefused :
    State.reset.mode = .idle ∧ ([] : List Midstate).length = 0 ∧
    5 ≤ [m0, m0, m0, m0, m0].length := by decide

/-- Two sends in a row. -/
theorem test_witness_SendsKeepProgramOrder :
    ∃ t u, (idleAt false [.ok 5, .ok 9] [] []).AcceptsFrame
        (frameOf Config.crc16 false (.readreg true 0 0)).length ∧
      exec (.readreg true 0 0) (idleAt false [.ok 5, .ok 9] [] []) = .next t ∧
      t.AcceptsFrame (frameOf Config.crc16 false (.writereg true 0 0 1)).length ∧
      exec (.writereg true 0 0 1) t = .next u :=
  ⟨_, _, ⟨5, rfl, by decide⟩, rfl, ⟨9, rfl, by decide⟩, rfl⟩

/-- A valid body (95_test_vectors 2.7). -/
def body0 : List Byte := [0x12, 0x34, 0x56, 0x78, 0x04, 0x18, 0x1C]

/-- Without and with preamble, at the smallest count, bytes behind the frame. -/
theorem test_witness_RecvDeliversResponse :
    (body0.length = 7 ∧ crc5 body0 = 0) ∧
    ((readerAt false (body0 ++ [0x77]) 7).mode = .idle ∧
      (readerAt false (body0 ++ [0x77]) 7).bus.inbound
        ++ (readerAt false (body0 ++ [0x77]) 7).bus.nextRead.arriving
        = (if (readerAt false (body0 ++ [0x77]) 7).cfgPre then [0xAA, 0x55] else []) ++ body0 ++ [0x77] ∧
      (readerAt false (body0 ++ [0x77]) 7).bus.nextRead.result = .data 7) ∧
    ((readerAt true ([0xAA, 0x55] ++ body0) 9).bus.inbound
        ++ (readerAt true ([0xAA, 0x55] ++ body0) 9).bus.nextRead.arriving
        = (if (readerAt true ([0xAA, 0x55] ++ body0) 9).cfgPre then [0xAA, 0x55] else []) ++ body0 ++ [] ∧
      (readerAt true ([0xAA, 0x55] ++ body0) 9).bus.nextRead.result = .data 9) := by decide +kernel

/-- Each clause of `expectedOutcome` is met: a timeout, an error, 0 bytes, a wrong second preamble byte,
a wrong checksum, and a response that passes. -/
theorem test_witness_RecvChecksInOrder :
    (readerAt true [] 9).mode = .idle ∧ (readerAt true [] 9).bus.nextRead.result = .data 9 ∧
    expectedOutcome false .timeout = some .ioTimeout ∧
    expectedOutcome true (.err 3) = some (.ioError (.transport 3)) ∧
    expectedOutcome true (busRead 9 (readerAt true [] 9).bus).1 = some (.framingLength 0) ∧
    expectedOutcome true (.ok ([0xAA, 0x54] ++ body0)) = some .framingPreamble ∧
    expectedOutcome false (.ok [0x12, 0x34, 0x56, 0x78, 0x04, 0x18, 0x1D]) = some .checksumError ∧
    expectedOutcome false (.ok body0) = none := by decide +kernel

/-- A read that gives 5 bytes, so that the last clause is met too. -/
theorem test_witness_RecvConsumesWhatItWasGiven :
    ∃ t, exec .recv (readerAt false (body0.take 5) 7) = .next t ∧ t.info = .count 5 ∧ t.status = 1 :=
  ⟨_, rfl, rfl, rfl⟩

theorem test_witness_ResponseRoundTrip :
    (readerAt true [] 9).mode = .idle ∧ (readerAt true [] 9).bus.inbound = [] ∧
    (readerAt true [] 9).bus.nextRead.result = .data 9 ∧ 9 ≤ 9 := by decide

/-- The first and the last byte, an undetected pattern and another one. -/
theorem test_witness_RecvOnOneCorruptedByte :
    (readerAt false (wireIn false (body0.set 0 (byteAt body0 0 ^^^ 0x25))) 9).mode = .idle ∧
    body0.length = 7 ∧ crc5 body0 = 0 ∧ 0 < 7 ∧ (0x25 : Byte) ≠ 0 ∧ (0x25 : Byte) ∈ undetected ∧
    (readerAt false (wireIn false (body0.set 0 (byteAt body0 0 ^^^ 0x25))) 9).bus.nextRead.result
      = .data 9 ∧
    (readerAt true (wireIn true (body0.set 6 (byteAt body0 6 ^^^ 0xFF))) 9).bus.inbound
      = wireIn true (body0.set 6 (byteAt body0 6 ^^^ 0xFF)) ++ [] ∧
    (0xFF : Byte) ∉ undetected := by decide +kernel

/-- R234: the frame of the spec's own example read without the preamble setting, and one whose first
seven bytes pass. -/
theorem test_witness_PreambleMismatchLeavesTwoBytes :
    ∃ t, (readerAt false [0xAA, 0x55, 0x13, 0x97, 0x18, 0x00, 0x00, 0x00, 0x06] 7).cfgPre = false ∧
      (readerAt false [0xAA, 0x55, 0x13, 0x97, 0x18, 0x00, 0x00, 0x00, 0x06] 7).bus.nextRead
        = ⟨[], .data 7⟩ ∧
      exec .recv (readerAt false [0xAA, 0x55, 0x13, 0x97, 0x18, 0x00, 0x00, 0x00, 0x06] 7) = .next t ∧
      t.status = 3 ∧ t.bus.inbound = [0x00, 0x06] :=
  ⟨_, rfl, rfl, rfl, by decide +kernel, by decide +kernel⟩

theorem test_witness_PreambleMismatch_passing :
    see (fun t => (t.status, t.res.value, t.bus.inbound))
      (exec .recv (readerAt false [0xAA, 0x55, 0x13, 0x97, 0x18, 0x00, 0x04, 0x00, 0x06] 7))
      = some (0, 0xAA551397, [0x00, 0x06]) := by decide +kernel

/-- The hypothesis of `Crc5Operation`, `Crc16Operation` and `CfgpreOperation`. -/
theorem test_witness_PortOperations : State.reset.mode = .idle := rfl

/-- A send next, and a `RECV` next. -/
theorem test_witness_CfgpreTakesEffectNext :
    (∃ t u, (Instr.readreg true 0 0).isWire = true ∧ (Instr.readreg true 0 0).wf = true ∧
      exec (.cfgpre true) (senderAt false 7) = .next t ∧
      (senderAt false 7).AcceptsFrame (frameOf Config.crc16 true (.readreg true 0 0)).length ∧
      exec (.readreg true 0 0) t = .next u) ∧
    (∃ t, exec (.cfgpre true) (readerAt false [] 9) = .next t) ∧
    ∀ taken, (readerAt false [] 9).bus.nextRead.result ≠ .never taken :=
  ⟨⟨_, _, rfl, rfl, rfl, ⟨7, rfl, by decide⟩, rfl⟩, ⟨_, rfl⟩,
    fun taken => by simp [readerAt, idleAt, Bus.nextRead]⟩

/-- A busy block; an idle one whose write returns and whose read would hang, for a send; one whose read
returns and whose write would hang, for `RECV`; and one where both would hang, for `CRC5`. -/
theorem test_witness_AcceptedOnlyIdle :
    (∀ v c g f k, Instr.recv ≠ .resp v c g f k) ∧
    ({ State.reset with mode := .tx } : State).mode ≠ .idle ∧
    (idleAt false [.ok 0] [] [⟨[], .never 0⟩]).mode = .idle ∧
    (idleAt false [.ok 0] [] [⟨[], .never 0⟩]).TransportReturns (.readreg true 0 0) ∧
    (idleAt false [.never 0] [] [⟨[], .timeout⟩]).TransportReturns .recv ∧
    (idleAt false [.never 0] [] [⟨[], .never 0⟩]).TransportReturns (.crc5 []) :=
  ⟨by simp, by decide, rfl,
    ⟨fun _ sent => by simp [idleAt, Bus.nextWrite], fun h => by simp at h⟩,
    ⟨fun h => by simp [Instr.isWire] at h, fun _ taken => by simp [idleAt, Bus.nextRead]⟩,
    ⟨fun h => by simp [Instr.isWire] at h, fun h => by simp at h⟩⟩

theorem test_witness_HungCallBlocksTheBlock :
    ((Instr.readreg true 0 0).isWire = true ∧ (Instr.readreg true 0 0).wf = true ∧
      (idleAt false [.never 2] [] []).mode = .idle ∧
      (idleAt false [.never 2] [] []).bus.nextWrite = .never 2) ∧
    ((idleAt false [] [] [⟨[], .never 3⟩]).mode = .idle ∧
      (idleAt false [] [] [⟨[], .never 3⟩]).bus.nextRead.result = .never 3) ∧
    (∀ v c g f k, Instr.crc5 [] ≠ .resp v c g f k) :=
  ⟨⟨rfl, rfl, rfl, rfl⟩, ⟨rfl, rfl⟩, by simp⟩

/-- A wire command, `RECV`, `CFGPRE`, a CRC and an arrival each answer a next state. -/
theorem test_witness_ElementsWrittenByTable :
    ∃ s1 s2 s3 s4 s5, exec (.readreg true 0 0) (senderAt false 5) = .next s1 ∧
      exec .recv (readerAt false body0 7) = .next s2 ∧ exec (.cfgpre true) (senderAt false 0) = .next s3 ∧
      exec (.crc16 [0x21]) (senderAt false 0) = .next s4 ∧
      exec (.resp 1 2 3 4 5) (senderAt false 0) = .next s5 :=
  ⟨_, _, _, _, _, rfl, rfl, rfl, rfl, rfl⟩

theorem test_witness_Crc5RegisterWriters :
    ∃ t, exec (.crc5 []) (senderAt false 0) = .next t ∧ t.crc5 ≠ (senderAt false 0).crc5 :=
  ⟨_, rfl, by decide⟩

/-- A step that sends. -/
theorem test_witness_OutboundOnlyGrows :
    ∃ t, step ((senderAt false 5).withFetchWord 8 0x43) = .next t ∧
      t.bus.outbound ≠ ((senderAt false 5).withFetchWord 8 0x43).bus.outbound :=
  ⟨_, rfl, by decide +kernel⟩

theorem test_witness_OnlyCfgpreChangesPre :
    ∃ t, step { senderAt false 0 with pending := [.cfgpre true] } = .next t ∧
      t.cfgPre ≠ (senderAt false 0).cfgPre :=
  ⟨_, rfl, by decide⟩

/-- Two states whose records differ. -/
theorem test_witness_RecordIsNeverRead :
    RecordOnly (senderAt false 5) { senderAt false 5 with status := 4, everFailed := true } ∧
    ∃ t, exec (.readreg true 0 0) (senderAt false 5) = .next t :=
  ⟨rfl, _, rfl⟩

/-- Two states whose scratch differs. -/
theorem test_witness_ScratchIsNeverRead :
    ScratchOnly (senderAt false 5) { senderAt false 5 with crc5 := 9, idx := 4, rxcnt := 7 } ∧
    ∃ t, exec (.readreg true 0 0) (senderAt false 5) = .next t :=
  ⟨rfl, _, rfl⟩

/-- A send, and a refused job. -/
theorem test_witness_NoResultAfterSend :
    (Instr.readreg true 0 0).isWire = true ∧ (jobOf 0).isWire = true ∧
    ∃ t u, exec (.readreg true 0 0) (senderAt false 5) = .next t ∧
      exec (jobOf 0) (senderAt false 5) = .next u :=
  ⟨rfl, rfl, _, _, rfl, rfl⟩

theorem test_witness_ResultReadNeedsValid :
    ({ State.reset with res := ⟨1, 2, 3, true⟩ } : State).res.valid = true ∧
    State.reset.res.valid = false := by decide

theorem test_witness_StepRunsDecodedRequest :
    ({ State.reset with pending := [.recv, .crc5 []] } : State).pending = .recv :: [.crc5 []] ∧
    decode .recv = .ok .recv := by decide

theorem test_witness_IdleStepChangesNothing : State.reset.pending = [] := rfl

/-- 0x31, and a payload of one byte. -/
theorem test_witness_RefusedFormsRaiseDescriptorError :
    State.reset.mode = .idle ∧
    decode (.command [0x31]) = .error (.descriptor .broadcastJob) ∧
    decode (.command [0x42, 0x06, 0, 0, 0, 0]) = .error (.descriptor (.payloadSize 1)) := by decide

/-- The admitted size, and one byte more, of both formats. -/
theorem test_witness_PayloadSizeDecides :
    (0x53 : Byte) ∈ [0x40, 0x50, 0x42, 0x52, 0x43, 0x53, 0x41, (0x51 : Byte)] ∧
    (0x41 : Byte) ∈ [0x40, 0x50, 0x42, 0x52, 0x43, 0x53, 0x41, (0x51 : Byte)] ∧
    (4 ≤ 4 ∧ 4 - 4 = 0) ∧ (4 ≤ 5 ∧ 5 - 4 ≠ 0) ∧ (4 ≤ 8 ∧ 8 - 4 = 4) ∧ (4 ≤ 9 ∧ 9 - 4 ≠ 4) := by decide

/-- The three invariants hold at reset, and a step answers. -/
theorem test_witness_InvariantsKept :
    State.reset.Inv ∧ ∃ t, step { State.reset with pending := [.crc5 []] } = .next t :=
  ⟨⟨⟨by decide, by decide, by decide, by decide, by decide, by decide, by decide, ⟨[], rfl⟩, [], rfl⟩,
    ⟨rfl, fun h => absurd rfl h, fun _ h => (nomatch h), fun _ => rfl⟩,
    ⟨fun h => (nomatch h), fun _ => rfl⟩⟩, _, rfl⟩

/-- R31: an error outcome meets the status invariant, and a step from it answers: a refused job, with an
operation behind it. -/
theorem test_witness_StatusInvKept :
    ∃ s, exec (.sendjob 0 0 0 0 0 []) { State.reset with pending := [.crc5 []] } = .next s ∧
      s.StatusInv ∧ s.status = 6 ∧ s.info = .reason (.midstateCount 0) ∧ ∃ t, step s = .next t :=
  ⟨_, rfl, ⟨statusLegal_outcome (.descriptorError (.midstateCount 0)), fun _ => rfl, fun o h => by cases h; exact ⟨rfl, rfl, by decide⟩,
    fun h => absurd rfl (h (.descriptorError (.midstateCount 0)))⟩, rfl, rfl, _, rfl⟩

/-- A zero increment, one chip too many, the largest admitted chains, a run that ends well, and one whose
second `SETADDR` fails. -/
theorem test_witness_AssignAddressesLines :
    (255 < (List.replicate 64 (newChip vocabulary 0)).length * 4) ∧
    (4 ≠ 0 ∧ (List.replicate 63 (newChip vocabulary 0)).length * 4 ≤ 255) ∧
    (assignAddresses vocabulary 4
      (controllerOn threeChips (idleAt false [.ok 5, .ok 5, .ok 5] [] []))).1 = .ok () ∧
    (assignAddresses vocabulary 4
      (controllerOn threeChips (idleAt false [.ok 5, .err 1 0] [] []))).1
      = .error (.block (.ioError (.transport 1))) := by
  rw [List.length_replicate, List.length_replicate]
  exact ⟨by decide, by decide, by decide +kernel, by decide +kernel⟩

/-- Unlocked, disabled, a zero product, and a running PLL. -/
theorem test_witness_PllFrequencyCases :
    (0x40700111 : Word).getLsbD 31 = false ∧ (0x80700111 : Word).getLsbD 30 = false ∧
    (0xC0700011 : Word).getLsbD 31 = true ∧ (0xC0700011 : Word).getLsbD 30 = true ∧
    ((0xC0700011 : Word).extractLsb' 8 6).toNat * ((0xC0700011 : Word).extractLsb' 4 3).toNat
      * ((0xC0700011 : Word).extractLsb' 0 3).toNat = 0 ∧
    ((0xC0700111 : Word).extractLsb' 8 6).toNat * ((0xC0700111 : Word).extractLsb' 4 3).toNat
      * ((0xC0700111 : Word).extractLsb' 0 3).toNat ≠ 0 ∧ 32 ≤ 32 := by decide

/-- A chip, a nonzero chip address, a timeout, and another error. -/
theorem test_witness_DiscoveryTurn :
    (receiveTriple (controllerOn [] (readerAt false answer0 7))).1
      = .ok (0x13879000, 0, vocabulary.raChipAddress) ∧
    (receiveTriple (controllerOn []
        (readerAt false [0x13, 0x87, 0x90, 0x04, 0x04, 0x00, 0x13] 7))).1 = .ok (0x13879004, 4, 0) ∧
    (receiveTriple (controllerOn [] (idleAt false [] [] [⟨[], .timeout⟩]))).1
      = .error (.block .ioTimeout) ∧
    (receiveTriple (controllerOn [] (readerAt false [] 7))).1
      = .error (.block (.framingLength 0)) := by decide +kernel

end Sys2Proof.Tests
end

section
/-!
PROOFS. What a step does with a request that is an operation (R12, R63).
-/

namespace Sys2Proof.Proofs

open Machine

/-- R12, R63: `decode` alone chooses the operation; the other cases of `step_cases` need an empty port or
a request that is refused. -/
theorem step_of_decode_ok {s : State} {r : Request} {rest : List Request} {i : Instr}
    (hp : s.pending = r :: rest) (hd : decode r = .ok i) : step s = exec i (setPending rest s) := by
  rcases step_cases s with ⟨hp', _⟩ | ⟨r', rest', i', hp', hd', hs⟩ | ⟨r', rest', why, hp', hd', _⟩
  · exact absurd (hp.symm.trans hp') (List.cons_ne_nil r rest)
  · obtain ⟨rfl, rfl⟩ := List.cons.inj (hp.symm.trans hp')
    obtain rfl := Except.ok.inj (hd.symm.trans hd')
    exact hs
  · obtain ⟨rfl, rfl⟩ := List.cons.inj (hp.symm.trans hp')
    exact nomatch hd.symm.trans hd'

/-- Settles O49: taking the request from the port is `setPending`, the rest is `step_of_decode_ok`. -/
theorem stepRunsDecodedRequest : Obligations.StepRunsDecodedRequest :=
  fun _ _ _ _ hp hd => step_of_decode_ok hp hd

end Sys2Proof.Proofs
end

section
/-!
PROOFS. What a step can do, said once, so that each invariant is checked against five effects (R12).
-/

namespace Sys2Proof.Proofs

open Machine

/-- R37, R38: what a request that is answered makes of the state: bytes arrive, a descriptor is
refused, a frame is transmitted with its descriptor and checksum latched, a response is received, or
an operation without a transport call ends and hands `v` over. -/
inductive Effect (s : State) : State → Prop where
  | arrival (w : List Byte) : Effect s (arrive w s)
  | refusal (why : DescriptorReason) : Effect s (refuseDescriptor why s)
  | send (body : List Byte) (c5 : BitVec 5) (c16 : BitVec 16) (cmd : Cmd) (job : Job)
      (fits : body.length ≤ 150) :
      Effect s (transmit body
        { clearValid s with crc5 := c5, crc16 := c16, cmd := cmd, job := job })
  | receive : Effect s (receive s)
  | ends (v : Returned) (pre : Bool) (c5 : BitVec 5) (c16 : BitVec 16) (good : ∀ o, v ≠ .raised o) :
      Effect s (finish v { s with cfgPre := pre, crc5 := c5, crc16 := c16 })

theorem sendControl_effect (op : Byte) (b : Bool) (chip reg : Byte) (val : Option Word)
    (s : State) : Effect s (sendControl op b chip reg val s) := by
  rw [sendControl_eq]
  refine .send _ _ _ _ _ ?_
  rw [encodeCtl_length]
  cases val <;> simp

theorem sendJob_effect (jobid : Byte) (nonce nbits ntime merkle : Word) (mids : List Midstate)
    (s : State) : Effect s (sendJob jobid nonce nbits ntime merkle mids s) := by
  rcases sendJob_cases jobid nonce nbits ntime merkle mids s with ⟨_, h⟩ | ⟨⟨_, hle⟩, h⟩ <;> rw [h]
  · exact .refusal _
  · exact .send _ _ _ _ _ (by rw [encodeJob_length]; omega)

theorem updateOf_effect (i : Instr) (s : State) : Effect s (updateOf i s) := by
  cases i with
  | setaddr => exact sendControl_effect ..
  | writereg => exact sendControl_effect ..
  | readreg => exact sendControl_effect ..
  | inactive => exact sendControl_effect ..
  | sendjob => exact sendJob_effect ..
  | resp => exact .arrival _
  | recv => exact .receive
  | crc5 => exact .ends _ _ _ _ nofun
  | crc16 => exact .ends _ _ _ _ nofun
  | cfgpre => exact .ends _ _ _ _ nofun

theorem takeReject_effect {r : Reject} {s t : State} (h : takeReject r s = .next t) :
    Effect s t := by
  cases r with
  | descriptor why =>
    obtain ⟨_, rfl⟩ := whenIdle_next h
    exact .refusal why
  | noise bytes =>
    obtain rfl := Host.Outcome.next.inj h
    exact .arrival bytes

/-- R12, R21: a step is an effect on the state with the request taken from the port, or nothing was
requested. -/
theorem step_effect {s t : State} (h : step s = .next t) :
    t = s ∨ ∃ rest, Effect (setPending rest s) t := by
  rcases step_cases s with ⟨_, hs⟩ | ⟨_, rest, i, _, _, hs⟩ | ⟨_, rest, why, _, _, hs⟩ <;>
    rw [hs] at h
  · exact .inl (Host.Outcome.next.inj h).symm
  · exact .inr ⟨rest, exec_next h ▸ updateOf_effect i _⟩
  · exact .inr ⟨rest, takeReject_effect h⟩

/-- R40: what does not look at the port and survives every effect survives every step. -/
theorem step_keeps {P : State → Prop} (port : ∀ rest s, P s → P (setPending rest s))
    (effect : ∀ s t, P s → Effect s t → P t) {s t : State} (hs : P s)
    (h : step s = .next t) : P t := by
  rcases step_effect h with rfl | ⟨rest, he⟩
  · exact hs
  · exact effect _ t (port rest s hs) he

/-! ### The end of a `RECV`, and the transport call that an operation makes -/

/-- R160, R246: what one `RECV` does, by what its read gave. -/
theorem receive_cases (s : State) :
    (∃ o, o ≠ .ok ∧ receive s =
      raise o (setBus (busRead (respLen s.cfgPre) s.bus).2 (setIdx 0 (clearValid s)))) ∨
    ((∃ taken, s.bus.nextRead.result = .never taken) ∧ receive s =
      setMode .rx (setBus (busRead (respLen s.cfgPre) s.bus).2 (setIdx 0 (clearValid s)))) ∨
    (∃ w, w.length ≤ respLen s.cfgPre ∧ receive s = checkResponse w
      (storeRx w (setBus (busRead (respLen s.cfgPre) s.bus).2 (setIdx 0 (clearValid s))))) := by
  have hr : receive s = endRecv (busRead (respLen s.cfgPre) s.bus).1
      (setBus (busRead (respLen s.cfgPre) s.bus).2 (setIdx 0 (clearValid s))) := rfl
  rw [hr, busRead_fst]
  cases hres : s.bus.nextRead.result with
  | data count => exact .inr (.inr ⟨_, readOutcome_length (r := .data count) rfl, rfl⟩)
  | timeout => exact .inl ⟨.ioTimeout, nofun, rfl⟩
  | err e dropped => exact .inl ⟨.ioError (.transport e), nofun, rfl⟩
  | never taken => exact .inr (.inl ⟨⟨taken, rfl⟩, rfl⟩)

end Sys2Proof.Proofs
end

section
/-!
PROOFS. Every step keeps the frame buffers canonical, inside their sizes and written as far as
counted (R28, R29, R34).
-/

namespace Sys2Proof.Proofs

open Machine

/-- What `State.BufferInv` looks at. -/
def bufferView (s : State) : Memory × BitVec 8 × Memory × BitVec 4 × BitVec 8 :=
  (s.txbuf, s.txlen, s.rxbuf, s.rxcnt, s.idx)

theorem bufferInv_congr {s t : State} (h : s.BufferInv) (hv : bufferView t = bufferView s) :
    t.BufferInv := by
  cases s; cases t
  simp only [bufferView, Prod.mk.injEq] at hv
  obtain ⟨rfl, rfl, rfl, rfl, rfl⟩ := hv
  exact { h with }

theorem bufferInv_setIdx {s : State} {n : Nat} (h : s.BufferInv) (hn : n ≤ txSize) :
    (setIdx n s).BufferInv :=
  { h with idxLe := (BitVec.toNat_ofNat n 8).trans_le ((Nat.mod_le _ _).trans hn) }

theorem bufferInv_storeTx {s : State} {frame : List Byte} (h : s.BufferInv)
    (hf : frame.length ≤ txSize) : (storeTx frame s).BufferInv := by
  have hlen : (storeTx frame s).txlen.toNat = frame.length :=
    (BitVec.toNat_ofNat _ _).trans (Nat.mod_eq_of_lt (hf.trans_lt (by decide)))
  exact
    { h with
      txWf := Memory.write_wf txSize frame 0 h.txWf
      txWithin := Memory.write_within txSize frame 0 h.txWithin
      txlenLe := hlen.trans_le hf
      txWritten := ⟨frame, hlen ▸ memRead_storeTx frame s hf⟩ }

/-- R29: `RXCNT` counts the stored bytes exactly. -/
theorem storeRx_rxcnt_toNat {w : List Byte} (s : State) (hw : w.length ≤ rxSize) :
    (storeRx w s).rxcnt.toNat = w.length :=
  (BitVec.toNat_ofNat _ _).trans (Nat.mod_eq_of_lt (hw.trans_lt (by decide)))

theorem bufferInv_storeRx {s : State} {w : List Byte} (h : s.BufferInv) (hw : w.length ≤ rxSize) :
    (storeRx w s).BufferInv := by
  have hcnt := storeRx_rxcnt_toNat s hw
  exact
    { h with
      rxWf := Memory.write_wf rxSize w 0 h.rxWf
      rxWithin := Memory.write_within rxSize w 0 h.rxWithin
      rxcntLe := hcnt.trans_le hw
      rxWritten := ⟨_, hcnt ▸ memRead_storeRx w s 0 w.length (by omega) hw⟩ }

/-- R34: `IDX` ends at the number of bytes that went out. -/
theorem endSend_idx (n : Nat) (a : WriteAnswer) (s : State) :
    (endSend n a s).idx = BitVec.ofNat 8 (bytesOut a) := by
  rcases endSend_cases n a s with ⟨_, _, rfl, h⟩ | ⟨_, _, rfl, h⟩ | ⟨_, _, rfl, h⟩ | ⟨_, rfl, h⟩ <;>
    rw [h] <;> rfl

theorem bufferInv_endSend {s : State} {n : Nat} {a : WriteAnswer} (h : s.BufferInv)
    (ha : bytesOut a ≤ txSize) : (endSend n a s).BufferInv := by
  obtain ⟨-, -, -, -, -, htx, hlen, hrx, hcnt, -⟩ := endSend_frame n a s
  refine bufferInv_congr (bufferInv_setIdx h ha) ?_
  simp [bufferView, htx, hlen, hrx, hcnt, endSend_idx]

theorem bufferInv_transmit {s : State} {body : List Byte} (h : s.BufferInv)
    (fits : body.length ≤ 150) : (transmit body s).BufferInv := by
  have hf := wireOut_fits s.cfgPre fits
  exact bufferInv_endSend (bufferInv_congr (bufferInv_storeTx h hf) rfl)
    ((bytesOut_cutAnswer_le _ _).trans hf)

theorem bufferInv_checkResponse {s : State} (w : List Byte) (h : s.BufferInv) :
    (checkResponse w s).BufferInv := by
  rcases checkResponse_cases w s with ⟨_, he⟩ | ⟨_, _, _, he⟩ | ⟨n, body, _, rfl, _, he⟩ <;> rw [he]
  · exact bufferInv_congr h rfl
  · have hi : preambleFault w ≤ txSize := by unfold preambleFault; split <;> decide
    exact bufferInv_congr (bufferInv_setIdx h hi) rfl
  · have hi : respLen s.cfgPre ≤ txSize := (respLen_le _).trans (by decide)
    rcases checkBody_cases (respLen s.cfgPre) body s with ⟨_, he⟩ | ⟨_, he⟩ <;> rw [he] <;>
      exact bufferInv_congr (bufferInv_setIdx h hi) rfl

theorem bufferInv_receive {s : State} (h : s.BufferInv) : (receive s).BufferInv := by
  have h0 : (setIdx 0 s).BufferInv := bufferInv_setIdx h (Nat.zero_le _)
  rcases receive_cases s with ⟨_, _, he⟩ | ⟨_, he⟩ | ⟨w, hw, he⟩ <;> rw [he]
  · exact bufferInv_congr h0 rfl
  · exact bufferInv_congr h0 rfl
  · exact bufferInv_checkResponse w
      (bufferInv_storeRx (bufferInv_congr h0 rfl) (hw.trans (respLen_le _)))

theorem effect_keeps_bufferInv (s t : State) (h : s.BufferInv) (he : Effect s t) : t.BufferInv := by
  cases he with
  | arrival w => exact bufferInv_congr h rfl
  | refusal why => exact bufferInv_congr h rfl
  | send body c5 c16 cmd job fits => exact bufferInv_transmit (bufferInv_congr h rfl) fits
  | receive => exact bufferInv_receive h
  | ends v pre c5 c16 => exact bufferInv_congr h rfl

/-- Settles O53: frames are at most 152 bytes and reads at most 9, so each counter is exact and a
read back of the stored bytes answers. -/
theorem bufferInvKept : Obligations.BufferInvKept :=
  fun _ _ => step_keeps (fun _ _ h => bufferInv_congr h rfl) effect_keeps_bufferInv

end Sys2Proof.Proofs
end

section
/-!
PROOFS. Every step keeps `STATUS` and `STATUS.INFO` the record of one outcome (R31, R207, R212). A write
that leaves what the invariant looks at carries it over as it stands, `{ h with }`.
-/

namespace Sys2Proof.Proofs

open Machine

/-- R200: no error outcome has the code of `OK`. -/
theorem code_ne_zero {o : OpOutcome} (h : o ≠ .ok) : o.code ≠ 0 := by
  cases o with
  | ok => exact absurd rfl h
  | _ => simp [OpOutcome.code]

/-- R207: `raise` alone settles the record, whatever it was before. -/
theorem statusInv_raise {o : OpOutcome} (s : State) (h : o ≠ .ok) : (raise o s).StatusInv where
  legal := statusLegal_outcome o
  recorded _ := rfl
  raised p hp := by
    obtain rfl := Returned.raised.inj hp
    exact ⟨rfl, rfl, code_ne_zero h⟩
  ended hp := absurd rfl (hp o)

theorem statusInv_finish {v : Returned} (s : State) (h : ∀ o, v ≠ .raised o) :
    (finish v s).StatusInv where
  legal := rfl
  recorded hs := absurd rfl hs
  raised o ho := absurd ho (h o)
  ended _ := rfl

theorem statusInv_endSend {s : State} (n : Nat) (a : WriteAnswer) (h : s.StatusInv) :
    (endSend n a s).StatusInv := by
  rcases endSend_cases n a s with ⟨_, _, _, he⟩ | ⟨_, _, _, he⟩ | ⟨_, _, _, he⟩ | ⟨_, _, he⟩ <;>
    rw [he]
  · exact statusInv_finish _ nofun
  · exact statusInv_raise _ nofun
  · exact statusInv_raise _ nofun
  · exact { h with }

theorem statusInv_checkResponse (w : List Byte) (s : State) : (checkResponse w s).StatusInv := by
  rcases checkResponse_cases w s with ⟨_, he⟩ | ⟨_, _, _, he⟩ | ⟨n, body, _, _, _, he⟩ <;> rw [he]
  · exact statusInv_raise _ nofun
  · exact statusInv_raise _ nofun
  · rcases checkBody_cases n body s with ⟨_, he⟩ | ⟨_, he⟩ <;> rw [he]
    · exact statusInv_raise _ nofun
    · exact statusInv_finish _ nofun

theorem statusInv_receive {s : State} (h : s.StatusInv) : (receive s).StatusInv := by
  rcases receive_cases s with ⟨_, ho, he⟩ | ⟨_, he⟩ | ⟨w, _, he⟩ <;> rw [he]
  · exact statusInv_raise _ ho
  · exact { h with }
  · exact statusInv_checkResponse w _

theorem effect_keeps_statusInv (s t : State) (h : s.StatusInv) (he : Effect s t) : t.StatusInv := by
  cases he with
  | arrival w => exact { h with }
  | refusal why => exact statusInv_raise _ nofun
  | send body c5 c16 cmd job => exact statusInv_endSend _ _ { h with }
  | receive => exact statusInv_receive h
  | ends v pre c5 c16 good => exact statusInv_finish _ good

/-- Settles O54: an operation ends by `raise` or `finish`, which write the whole record, or it hangs
and writes none of it. -/
theorem statusInvKept : Obligations.StatusInvKept :=
  fun _ _ => step_keeps (fun _ _ h => { h with }) effect_keeps_statusInv

end Sys2Proof.Proofs
end

section
/-!
PROOFS. Every step keeps a readable result what the checked response in `RXBUF` says (R30, R164).
-/

namespace Sys2Proof.Proofs

open Machine

/-- R30: with `RES.VALID = 0` nothing is claimed. -/
theorem resultInv_of_invalid {s : State} (h : s.res.valid = false) : s.ResultInv where
  checked hv := absurd hv (by simp [h])
  ended _ := h

/-- R82, R161: the body is the last seven bytes of a response of the right length. -/
theorem wireIn_last_seven {pre : Bool} {body : List Byte}
    (h : (wireIn pre body).length = respLen pre) :
    ((wireIn pre body).drop ((wireIn pre body).length - 7)).take 7 = body := by
  have hb : body.length = 7 := by
    rw [wireIn_length] at h
    cases pre <;> simp [respLen] at h <;> omega
  cases pre with
  | false => simp [wireIn, hb]
  | true => simp [wireIn, preambleIn, hb]

/-- R30, R160, R164: a response that passes leaves its last seven bytes in `RXBUF` and their fields
in `RES`. -/
theorem resultInv_checkBody_pass {s : State} {w body : List Byte}
    (hlen : w.length = respLen s.cfgPre) (hw : w = wireIn s.cfgPre body) (hc : crc5 body = 0)
    (n : Nat) : (checkBody n body (storeRx w s)).ResultInv := by
  have hfits : w.length ≤ rxSize := hlen.trans_le (respLen_le _)
  have hcnt := storeRx_rxcnt_toNat s hfits
  have hseven : 7 ≤ w.length := by rw [hlen]; cases s.cfgPre <;> decide
  have hbody : (w.drop (w.length - 7)).take 7 = body := by
    subst hw
    exact wireIn_last_seven hlen
  have hread : memRead .rx (w.length - 7) 7 (storeRx w s) = .next body :=
    hbody ▸ memRead_storeRx w s (w.length - 7) 7 (by omega) hfits
  have hcount : (storeRx w s).rxcnt = 7 ∨ (storeRx w s).rxcnt = 9 := by
    rw [storeRx_rxcnt, hlen]; cases s.cfgPre <;> decide
  rcases checkBody_cases n body (storeRx w s) with ⟨hne, _⟩ | ⟨_, he⟩
  · exact absurd hc hne
  · rw [he]
    exact ⟨fun _ => ⟨body, hcnt ▸ hread, hcount, hc, rfl, rfl, rfl⟩, fun hm => absurd rfl hm⟩

theorem resultInv_checkResponse {s : State} (w : List Byte) (h : s.res.valid = false) :
    (checkResponse w (storeRx w s)).ResultInv := by
  rcases checkResponse_cases w (storeRx w s) with
    ⟨_, he⟩ | ⟨_, _, _, he⟩ | ⟨n, body, hlen, _, hw, he⟩ <;> rw [he]
  · exact resultInv_of_invalid h
  · exact resultInv_of_invalid h
  · rcases checkBody_cases n body (storeRx w s) with ⟨_, hb⟩ | ⟨hc, _⟩
    · rw [hb]
      exact resultInv_of_invalid h
    · exact resultInv_checkBody_pass (s := s) hlen hw hc n

theorem resultInv_receive (s : State) : (receive s).ResultInv := by
  rcases receive_cases s with ⟨_, _, he⟩ | ⟨_, he⟩ | ⟨w, _, he⟩ <;> rw [he]
  · exact resultInv_of_invalid rfl
  · exact resultInv_of_invalid rfl
  · exact resultInv_checkResponse w rfl

theorem effect_keeps_resultInv (s t : State) (h : s.ResultInv) (he : Effect s t) : t.ResultInv := by
  cases he with
  | arrival w => exact { h with }
  | refusal why => exact resultInv_of_invalid rfl
  | send body c5 c16 cmd job =>
    refine resultInv_of_invalid ?_
    simp [transmit_frame]
  | receive => exact resultInv_receive s
  | ends v pre c5 c16 => exact { h with ended := fun hm => absurd rfl hm }

/-- Settles O55: a send and a `RECV` clear the result first, and only a response that passes sets
it. -/
theorem resultInvKept : Obligations.ResultInvKept :=
  fun _ _ => step_keeps (fun _ _ h => { h with }) effect_keeps_resultInv

end Sys2Proof.Proofs
end

section
/-!
PROOFS. What is never read before it is written: the record of past outcomes and scratch (R31, R38,
R212).
-/

namespace Sys2Proof.Proofs

open Machine

/-- The writes that every operation is made of. -/
inductive Write : (State → State) → Prop where
  | clearValid : Write clearValid
  | latchRes (value : Word) (chip reg : Byte) : Write (latchRes value chip reg)
  | latchCmd (op : Byte) (b : Bool) (chip reg : Byte) (val : Option Word) :
      Write (latchCmd op b chip reg val)
  | latchJob (jobid : Byte) (nonce nbits ntime merkle : Word) (mids : List Midstate) :
      Write (latchJob jobid nonce nbits ntime merkle mids)
  | setCrc5 (v : BitVec 5) : Write (setCrc5 v)
  | setCrc16 (v : BitVec 16) : Write (setCrc16 v)
  | setPre (p : Bool) : Write (setPre p)
  | setMode (m : Mode) : Write (setMode m)
  | setIdx (n : Nat) : Write (setIdx n)
  | storeTx (frame : List Byte) : Write (storeTx frame)
  | storeRx (w : List Byte) : Write (storeRx w)
  | setBus (b : Bus) : Write (setBus b)
  | arrive (w : List Byte) : Write (arrive w)
  | raise (o : OpOutcome) : Write (raise o)
  | finish (v : Returned) : Write (finish v)

/-- R31, R38: two states that `R` relates look the same to an operation, and every write keeps them
related. -/
structure Unseen (R : State → State → Prop) : Prop where
  mode : ∀ {s s'}, R s s' → s'.mode = s.mode
  cfgPre : ∀ {s s'}, R s s' → s'.cfgPre = s.cfgPre
  bus : ∀ {s s'}, R s s' → s'.bus = s.bus
  write : ∀ {f s s'}, Write f → R s s' → R (f s) (f s')

variable {R : State → State → Prop} {s s' : State}

theorem unseen_setMode (u : Unseen R) (m : Mode) (h : R s s') : R (setMode m s) (setMode m s') :=
  u.write (.setMode m) h

theorem unseen_raise (u : Unseen R) (o : OpOutcome) (h : R s s') : R (raise o s) (raise o s') :=
  u.write (.raise o) h

theorem unseen_finish (u : Unseen R) (v : Returned) (h : R s s') : R (finish v s) (finish v s') :=
  u.write (.finish v) h

theorem unseen_endSend (u : Unseen R) (n : Nat) (a : WriteAnswer) (h : R s s') :
    R (endSend n a s) (endSend n a s') := by
  cases a with
  | ok count =>
    simp only [endSend]
    split
    · exact unseen_raise u _ (u.write (.setIdx _) h)
    · exact unseen_finish u _ (u.write (.setIdx _) h)
  | err e sent => exact unseen_raise u _ (u.write (.setIdx _) h)
  | never sent => exact unseen_setMode u _ (u.write (.setIdx _) h)

theorem unseen_transmit (u : Unseen R) (body : List Byte) (h : R s s') :
    R (transmit body s) (transmit body s') := by
  simp only [transmit, u.cfgPre h, u.bus h]
  exact unseen_endSend u _ _ (u.write (.setBus _) (u.write (.storeTx _) h))

theorem unseen_sendControl (u : Unseen R) (op : Byte) (b : Bool) (chip reg : Byte)
    (val : Option Word) (h : R s s') :
    R (sendControl op b chip reg val s) (sendControl op b chip reg val s') := by
  simp only [sendControl_eq]
  exact unseen_transmit u _
    (u.write (.setCrc5 _) (u.write (.latchCmd ..) (u.write .clearValid h)))

theorem unseen_sendJob (u : Unseen R) (jobid : Byte) (nonce nbits ntime merkle : Word)
    (mids : List Midstate) (h : R s s') :
    R (sendJob jobid nonce nbits ntime merkle mids s)
      (sendJob jobid nonce nbits ntime merkle mids s') := by
  simp only [sendJob]
  split
  · exact unseen_raise u _ (u.write .clearValid h)
  · exact unseen_transmit u _
      (u.write (.setCrc16 _) (u.write (.latchJob ..) (u.write .clearValid h)))

theorem unseen_checkBody (u : Unseen R) (n : Nat) (body : List Byte) (h : R s s') :
    R (checkBody n body s) (checkBody n body s') := by
  have hi := u.write (.setIdx n) (u.write (.setCrc5 (crc5 body)) h)
  simp only [checkBody]
  split
  · exact unseen_raise u _ hi
  · exact unseen_finish u _ (u.write (.latchRes ..) hi)

theorem unseen_checkResponse (u : Unseen R) (w : List Byte) (h : R s s') :
    R (checkResponse w s) (checkResponse w s') := by
  simp only [checkResponse, checkPreamble, u.cfgPre h]
  split
  · exact unseen_raise u _ h
  · split
    · split
      · exact unseen_raise u _ (u.write (.setIdx _) h)
      · exact unseen_checkBody u _ _ h
    · exact unseen_checkBody u _ _ h

theorem unseen_endRecv (u : Unseen R) (r : ReadOutcome) (h : R s s') :
    R (endRecv r s) (endRecv r s') := by
  cases r with
  | ok w => exact unseen_checkResponse u w (u.write (.storeRx w) h)
  | timeout => exact unseen_raise u _ h
  | err e => exact unseen_raise u _ h
  | never => exact unseen_setMode u _ h

theorem unseen_receive (u : Unseen R) (h : R s s') : R (receive s) (receive s') := by
  have hc := u.write (.setIdx 0) (u.write .clearValid h)
  simp only [receive, u.cfgPre hc, u.bus hc]
  exact unseen_endRecv u _ (u.write (.setBus _) hc)

theorem unseen_updateOf (u : Unseen R) (i : Instr) (h : R s s') :
    R (updateOf i s) (updateOf i s') := by
  cases i with
  | setaddr => exact unseen_sendControl u _ _ _ _ _ h
  | writereg => exact unseen_sendControl u _ _ _ _ _ h
  | readreg => exact unseen_sendControl u _ _ _ _ _ h
  | inactive => exact unseen_sendControl u _ _ _ _ _ h
  | sendjob => exact unseen_sendJob u _ _ _ _ _ _ h
  | resp =>
    simp only [updateOf, u.cfgPre h]
    exact u.write (.arrive _) h
  | recv => exact unseen_receive u h
  | crc5 => exact unseen_finish u _ (u.write (.setCrc5 _) h)
  | crc16 => exact unseen_finish u _ (u.write (.setCrc16 _) h)
  | cfgpre => exact unseen_finish u _ (u.write (.setPre _) h)

/-- R33: whether an operation is accepted depends on `MODE` alone. -/
theorem exec_next_of_mode_eq {i : Instr} {t : State} (hm : s'.mode = s.mode)
    (h : exec i s = .next t) : exec i s' = .next (updateOf i s') := by
  rcases exec_cases i s' with ⟨he, _⟩ | ⟨_, hbusy⟩
  · exact he
  · rcases exec_cases i s with ⟨_, hidle | ⟨v, c, g, f, k, rfl⟩⟩ | ⟨he, _⟩
    · exact absurd (hm.trans hidle) hbusy
    · rfl
    · exact nomatch h.symm.trans he

/-- No operation tells two related states apart. -/
theorem exec_unseen (u : Unseen R) {i : Instr} {t : State} (hr : R s s') (h : exec i s = .next t) :
    ∃ t', exec i s' = .next t' ∧ R t t' := by
  obtain rfl := exec_next h
  exact ⟨_, exec_next_of_mode_eq (u.mode hr) h, unseen_updateOf u i hr⟩

theorem recordOnly_iff : RecordOnly s s' ↔ ∃ status info returned everFailed, s' =
    { s with status := status, info := info, returned := returned, everFailed := everFailed } :=
  ⟨fun h => ⟨_, _, _, _, h⟩, by rintro ⟨_, _, _, _, rfl⟩; rfl⟩

theorem recordOnly_unseen : Unseen RecordOnly where
  mode h := by rw [h]
  cfgPre h := by rw [h]
  bus h := by rw [h]
  write hf h := by
    obtain ⟨_, _, _, _, rfl⟩ := recordOnly_iff.mp h
    cases hf <;> rfl

theorem scratchOnly_iff : ScratchOnly s s' ↔ ∃ c5 c16 cmd job txbuf txlen rxbuf rxcnt idx, s' =
    { s with crc5 := c5, crc16 := c16, cmd := cmd, job := job, txbuf := txbuf, txlen := txlen,
             rxbuf := rxbuf, rxcnt := rxcnt, idx := idx } :=
  ⟨fun h => ⟨_, _, _, _, _, _, _, _, _, h⟩, by rintro ⟨_, _, _, _, _, _, _, _, _, rfl⟩; rfl⟩

theorem scratchOnly_unseen : Unseen ScratchOnly where
  mode h := by rw [h]
  cfgPre h := by rw [h]
  bus h := by rw [h]
  write hf h := by
    obtain ⟨_, _, _, _, _, _, _, _, _, rfl⟩ := scratchOnly_iff.mp h
    cases hf <;> rfl

/-- Settles O45: the record takes part in no decision and in no value that is written elsewhere. -/
theorem recordIsNeverRead : Obligations.RecordIsNeverRead :=
  fun _ _ _ _ hr h => exec_unseen recordOnly_unseen hr h

/-- Settles O46: what an operation reads of scratch it has written before. -/
theorem scratchIsNeverRead : Obligations.ScratchIsNeverRead :=
  fun _ _ _ _ hr h => exec_unseen scratchOnly_unseen hr h

end Sys2Proof.Proofs
end

section
/-!
PROOFS. Which operation writes which element, and when one is accepted (R23, R30, R33, R37).
-/

namespace Sys2Proof.Proofs

open Machine

/-! ### What the operations leave alone -/

theorem sendControl_frame (op : Byte) (b : Bool) (chip reg : Byte) (val : Option Word) (s : State) :
    (sendControl op b chip reg val s).cfgPre = s.cfgPre ∧
    (sendControl op b chip reg val s).crc16 = s.crc16 ∧
    (sendControl op b chip reg val s).job = s.job ∧
    (sendControl op b chip reg val s).rxbuf = s.rxbuf ∧
    (sendControl op b chip reg val s).rxcnt = s.rxcnt ∧
    (sendControl op b chip reg val s).res = { s.res with valid := false } ∧
    (sendControl op b chip reg val s).bus.inbound = s.bus.inbound ∧
    (sendControl op b chip reg val s).bus.readScript = s.bus.readScript ∧
    (sendControl op b chip reg val s).pending = s.pending := by
  simp [sendControl_eq, transmit_frame]

theorem sendJob_frame (j : Byte) (n d m k : Word) (ms : List Midstate) (s : State) :
    (sendJob j n d m k ms s).cfgPre = s.cfgPre ∧ (sendJob j n d m k ms s).crc5 = s.crc5 ∧
    (sendJob j n d m k ms s).cmd = s.cmd ∧ (sendJob j n d m k ms s).rxbuf = s.rxbuf ∧
    (sendJob j n d m k ms s).rxcnt = s.rxcnt ∧
    (sendJob j n d m k ms s).res = { s.res with valid := false } ∧
    (sendJob j n d m k ms s).bus.inbound = s.bus.inbound ∧
    (sendJob j n d m k ms s).bus.readScript = s.bus.readScript ∧
    (sendJob j n d m k ms s).pending = s.pending := by
  rcases sendJob_cases j n d m k ms s with ⟨_, h⟩ | ⟨_, h⟩ <;> rw [h]
  · simp [refuseDescriptor]
  · simp [transmit_frame]

/-- R33: what is accepted found the block idle, an arriving frame apart. -/
theorem exec_next_idle {i : Instr} {s t : State} (h : exec i s = .next t)
    (hi : ∀ v c g f k, i ≠ .resp v c g f k) : s.mode = .idle :=
  (whenIdle_next ((exec_operation hi s).symm.trans h)).1

/-- Settles O41: the frames of the shared sequences, by operation. -/
theorem elementsWrittenByTable : Obligations.ElementsWrittenByTable := by
  intro i s t h
  have hidle := exec_next_idle h
  obtain rfl := exec_next h
  cases i with
  | setaddr => simp [updateOf, Instr.isWire, sendControl_frame]
  | writereg => simp [updateOf, Instr.isWire, sendControl_frame]
  | readreg => simp [updateOf, Instr.isWire, sendControl_frame]
  | inactive => simp [updateOf, Instr.isWire, sendControl_frame]
  | sendjob => simp [updateOf, Instr.isWire, sendJob_frame]
  | resp => simp [updateOf, Instr.isWire]
  | recv => simp [updateOf, Instr.isWire, receive_frame]
  | crc5 => simp [updateOf, Instr.isWire, hidle nofun]
  | crc16 => simp [updateOf, Instr.isWire, hidle nofun]
  | cfgpre => simp [updateOf, Instr.isWire, hidle nofun]

/-- Settles O42: `SENDJOB`, `CRC16`, `CFGPRE` and an arrival leave the register alone. -/
theorem crc5RegisterWriters : Obligations.Crc5RegisterWriters := by
  intro i s t h hne
  obtain rfl := exec_next h
  cases i with
  | sendjob j n d m k ms =>
    obtain ⟨-, hcrc, -⟩ := sendJob_frame j n d m k ms s
    exact absurd hcrc hne
  | resp => exact absurd rfl hne
  | crc16 => exact absurd rfl hne
  | cfgpre => exact absurd rfl hne
  | setaddr | writereg | readreg | inactive | recv | crc5 => simp

/-- Settles O48: `readRes` asks `RES.VALID` and nothing else. -/
theorem resultReadNeedsValid : Obligations.ResultReadNeedsValid :=
  fun s => ⟨fun h => by simp [readRes, h], fun h => by simp [readRes, h]⟩

/-- Settles O47: by the table (O41) a wire command leaves `RES.VALID` 0. -/
theorem noResultAfterSend : Obligations.NoResultAfterSend := by
  intro i s t hi h
  obtain ⟨-, -, -, -, -, -, hwire, -⟩ := elementsWrittenByTable i s t h
  exact (resultReadNeedsValid t).2 (hwire hi).1

/-! ### `CFG.PRE` and the port -/

theorem decodeC0_isWire {mk : Bool → Byte → Byte → Instr} {w : List Byte} {i : Instr}
    (hmk : ∀ b chip reg, (mk b chip reg).isWire = true) (h : decodeC0 mk w = .ok i) :
    i.isWire = true := by
  unfold decodeC0 at h
  split at h
  · exact Except.ok.inj h ▸ hmk _ _ _
  · split at h <;> exact nomatch h

theorem decodeCW_isWire {w : List Byte} {i : Instr} (h : decodeCW w = .ok i) : i.isWire = true := by
  unfold decodeCW at h
  split at h
  · exact Except.ok.inj h ▸ rfl
  · split at h <;> exact nomatch h

theorem decodeJ_isWire {w : List Byte} {i : Instr} (h : decodeJ w = .ok i) : i.isWire = true := by
  unfold decodeJ at h
  split at h
  · exact Except.ok.inj h ▸ rfl
  · exact nomatch h

theorem decodeAs_isWire {c : Command} {w : List Byte} {i : Instr} (h : decodeAs c w = .ok i) :
    i.isWire = true := by
  cases c with
  | setaddr => exact decodeC0_isWire (fun _ _ _ => rfl) h
  | writereg => exact decodeCW_isWire h
  | readreg => exact decodeC0_isWire (fun _ _ _ => rfl) h
  | inactive => exact decodeC0_isWire (fun _ _ _ => rfl) h
  | sendjob => exact decodeJ_isWire h

/-- R84: an image at the command port decodes to a wire command, if to anything. -/
theorem decodeCommand_isWire {w : List Byte} {i : Instr} (h : decodeCommand w = .ok i) :
    i.isWire = true := by
  cases w with
  | nil => exact nomatch h
  | cons op t =>
    simp only [decodeCommand] at h
    split at h
    · exact nomatch h
    · split at h
      · exact decodeAs_isWire h
      · exact nomatch h

/-- R97: `CFGPRE` has no wire form, so only its own request decodes to it. -/
theorem decode_cfgpre {r : Request} {p : Bool} (h : decode r = .ok (.cfgpre p)) :
    r = .cfgpre p := by
  cases r with
  | command w => exact nomatch decodeCommand_isWire h
  | incoming w =>
    simp only [decode, decodeIncoming] at h
    split at h <;> exact nomatch h
  | cfgpre q => cases h; rfl
  | recv => exact nomatch h
  | crc5 w => exact nomatch h
  | crc16 w => exact nomatch h

theorem takeReject_cfgPre {r : Reject} {s t : State} (h : takeReject r s = .next t) :
    t.cfgPre = s.cfgPre := by
  cases r with
  | descriptor why => rw [(whenIdle_next h).2]; rfl
  | noise bytes => cases h; rfl

/-- R37, R140: an operation that changes `CFG.PRE` is `CFGPRE` with the new value. -/
theorem exec_changes_cfgPre {i : Instr} {s t : State} (h : exec i s = .next t)
    (hne : t.cfgPre ≠ s.cfgPre) : i = .cfgpre t.cfgPre := by
  obtain ⟨hkeep, -⟩ := elementsWrittenByTable i s t h
  by_cases hi : ∃ p, i = .cfgpre p
  · obtain ⟨p, rfl⟩ := hi
    rw [exec_next h]
    rfl
  · exact absurd (hkeep fun p hp => hi ⟨p, hp⟩) hne

/-- Settles O44: by the table (O41) the operation was `CFGPRE`, and only a `CFGPRE` request decodes
to it. -/
theorem onlyCfgpreChangesPre : Obligations.OnlyCfgpreChangesPre := by
  intro s t h hne
  rcases step_cases s with ⟨_, hs⟩ | ⟨r, rest, i, hp, hd, hs⟩ | ⟨_, rest, why, _, _, hs⟩ <;>
    rw [hs] at h
  · cases h
    exact absurd rfl hne
  · obtain rfl := exec_changes_cfgPre h hne
    exact ⟨rest, decode_cfgpre hd ▸ hp⟩
  · exact absurd (takeReject_cfgPre h) hne

/-! ### Acceptance -/

theorem endSend_idle {a : WriteAnswer} (n : Nat) (s : State) (h : ∀ sent, a ≠ .never sent) :
    (endSend n a s).mode = .idle := by
  rcases endSend_cases n a s with ⟨_, _, _, he⟩ | ⟨_, _, _, he⟩ | ⟨_, _, _, he⟩ | ⟨sent, ha, _⟩
  · rw [he]; rfl
  · rw [he]; rfl
  · rw [he]; rfl
  · exact absurd ha (h sent)

/-- R57: the cut of an answer at the frame's length makes no call hang. -/
theorem cutAnswer_returns {a : WriteAnswer} (n : Nat) (h : ∀ sent, a ≠ .never sent) (sent : Nat) :
    cutAnswer n a ≠ .never sent := by
  cases a with
  | ok count => exact nofun
  | err e k => exact nofun
  | never k => exact absurd rfl (h k)

theorem transmit_idle {s : State} (body : List Byte) (h : ∀ sent, s.bus.nextWrite ≠ .never sent) :
    (transmit body s).mode = .idle :=
  endSend_idle _ _ (cutAnswer_returns _ h)

theorem sendControl_idle {s : State} (op : Byte) (b : Bool) (chip reg : Byte) (val : Option Word)
    (h : ∀ sent, s.bus.nextWrite ≠ .never sent) :
    (sendControl op b chip reg val s).mode = .idle := by
  rw [sendControl_eq]
  exact transmit_idle _ h

theorem sendJob_idle {s : State} (j : Byte) (n d m k : Word) (ms : List Midstate)
    (h : ∀ sent, s.bus.nextWrite ≠ .never sent) : (sendJob j n d m k ms s).mode = .idle := by
  rcases sendJob_cases j n d m k ms s with ⟨_, he⟩ | ⟨_, he⟩ <;> rw [he]
  · rfl
  · exact transmit_idle _ h

theorem checkResponse_idle (w : List Byte) (s : State) : (checkResponse w s).mode = .idle := by
  rcases checkResponse_cases w s with ⟨_, he⟩ | ⟨_, _, _, he⟩ | ⟨n, body, _, _, _, he⟩ <;> rw [he]
  · rfl
  · rfl
  · rcases checkBody_cases n body s with ⟨_, he⟩ | ⟨_, he⟩ <;> rw [he] <;> rfl

theorem receive_idle {s : State} (h : ∀ taken, s.bus.nextRead.result ≠ .never taken) :
    (receive s).mode = .idle := by
  rcases receive_cases s with ⟨_, _, he⟩ | ⟨⟨taken, hn⟩, _⟩ | ⟨w, _, he⟩
  · rw [he]; rfl
  · exact absurd hn (h taken)
  · rw [he]; exact checkResponse_idle w _

theorem updateOf_idle {i : Instr} {s : State} (hm : s.mode = .idle) (h : s.TransportReturns i) :
    (updateOf i s).mode = .idle := by
  obtain ⟨hwrite, hread⟩ := h
  cases i with
  | setaddr => exact sendControl_idle _ _ _ _ _ (hwrite rfl)
  | writereg => exact sendControl_idle _ _ _ _ _ (hwrite rfl)
  | readreg => exact sendControl_idle _ _ _ _ _ (hwrite rfl)
  | inactive => exact sendControl_idle _ _ _ _ _ (hwrite rfl)
  | sendjob => exact sendJob_idle _ _ _ _ _ _ (hwrite rfl)
  | resp => exact hm
  | recv => exact receive_idle (hread rfl)
  | crc5 => rfl
  | crc16 => rfl
  | cfgpre => rfl

/-- Settles O39: `whenIdle` accepts or refuses, and only a call that never returns leaves `IDLE`. -/
theorem acceptedOnlyIdle : Obligations.AcceptedOnlyIdle := by
  intro i s hi
  rw [exec_operation hi]
  refine ⟨fun hm => ?_, fun hm hret => ⟨_, whenIdle_idle _ hm, updateOf_idle hm hret⟩⟩
  rw [whenIdle_busy _ hm]
  exact ⟨rfl, rfl⟩

/-- Settles O50: the first case of `step_cases`; the others need a request. -/
theorem idleStepChangesNothing : Obligations.IdleStepChangesNothing := by
  intro s hp
  rcases step_cases s with ⟨_, hs⟩ | ⟨r, rest, _, hp', _⟩ | ⟨r, rest, _, hp', _⟩
  · exact hs
  · exact absurd (hp'.symm.trans hp) (List.cons_ne_nil r rest)
  · exact absurd (hp'.symm.trans hp) (List.cons_ne_nil r rest)

end Sys2Proof.Proofs
end

section
/-!
PROOFS. What reset leaves (R39, R230).
-/

namespace Sys2Proof.Proofs

open Machine

theorem reset_bufferInv : State.reset.BufferInv where
  txWf := reset_buffers_wf.1
  rxWf := reset_buffers_wf.2
  txWithin := nofun
  rxWithin := nofun
  txlenLe := Nat.zero_le _
  rxcntLe := Nat.zero_le _
  idxLe := Nat.zero_le _
  txWritten := ⟨[], rfl⟩
  rxWritten := ⟨[], rfl⟩

theorem reset_statusInv : State.reset.StatusInv where
  legal := rfl
  recorded h := absurd rfl h
  raised := nofun
  ended _ := rfl

/-- Settles O56: nothing is counted, no outcome is recorded and no result is valid. -/
theorem invAtReset : Obligations.InvAtReset where
  buffers := reset_bufferInv
  status := reset_statusInv
  result := resultInv_of_invalid rfl

/-- Settles O57: `State.reset` and `resetBlock` write these elements out, field by field. -/
theorem resetValues : Obligations.ResetValues :=
  ⟨⟨rfl, rfl, rfl, rfl, rfl, rfl⟩, fun _ => rfl⟩

end Sys2Proof.Proofs
end

section
/-!
PROOFS. What a wire command puts on the outbound stream, and how its write ends it (R57, R63, R131,
R208).
-/

namespace Sys2Proof.Proofs

open Machine

/-! ### Every admitted wire command is one write of its frame -/

/-- R131, R150: an admitted wire command transmits its body, its descriptor and checksum latched and
`RES.VALID` cleared. -/
theorem updateOf_transmits {i : Instr} (hwire : i.isWire = true) (hwf : i.wf = true) (s : State) :
    ∃ x, updateOf i s = transmit (bodyOf Config.crc16 i) x ∧ x.cfgPre = s.cfgPre ∧ x.bus = s.bus ∧
      x.res.valid = false := by
  cases i with
  | setaddr => exact ⟨_, sendControl_eq .., rfl, rfl, rfl⟩
  | writereg => exact ⟨_, sendControl_eq .., rfl, rfl, rfl⟩
  | readreg => exact ⟨_, sendControl_eq .., rfl, rfl, rfl⟩
  | inactive => exact ⟨_, sendControl_eq .., rfl, rfl, rfl⟩
  | sendjob j n d m k ms =>
    have hcount : 1 ≤ ms.length ∧ ms.length ≤ 4 := by simpa [Instr.wf] using hwf
    rcases sendJob_cases j n d m k ms s with ⟨hout, _⟩ | ⟨_, he⟩
    · omega
    · exact ⟨_, he, rfl, rfl, rfl⟩
  | resp | recv | crc5 | crc16 | cfgpre => exact nomatch hwire

/-- R57, R131: an admitted wire command is one `BusWrite` of its frame, and ends by the answer. -/
theorem updateOf_ends_write {i : Instr} (hwire : i.isWire = true) (hwf : i.wf = true) (s : State) :
    ∃ x, updateOf i s = endSend (frameOf Config.crc16 s.cfgPre i).length
        (busWrite (frameOf Config.crc16 s.cfgPre i) s.bus).1 x ∧
      x.bus = (busWrite (frameOf Config.crc16 s.cfgPre i) s.bus).2 ∧ x.res.valid = false := by
  obtain ⟨x, he, hpre, hbus, hvalid⟩ := updateOf_transmits hwire hwf s
  rw [he, frameOf, ← hpre, ← hbus]
  exact ⟨_, rfl, rfl, hvalid⟩

theorem updateOf_wire_bus {i : Instr} (hwire : i.isWire = true) (hwf : i.wf = true) (s : State) :
    (updateOf i s).bus = (busWrite (frameOf Config.crc16 s.cfgPre i) s.bus).2 := by
  obtain ⟨x, he, hbus, -⟩ := updateOf_ends_write hwire hwf s
  simp [he, endSend_frame, hbus]

/-- R57: a write that accepts the whole frame appends it. -/
theorem updateOf_accepted_outbound {i : Instr} {s : State} (hwire : i.isWire = true)
    (hwf : i.wf = true) (h : s.AcceptsFrame (frameOf Config.crc16 s.cfgPre i).length) :
    (updateOf i s).bus.outbound = s.bus.outbound ++ frameOf Config.crc16 s.cfgPre i := by
  obtain ⟨count, hok, hle⟩ := h
  rw [updateOf_wire_bus hwire hwf, busWrite_accepts hok hle]

/-! ### Two sends (R63) -/

/-- R23, R37: by the table (O41) a wire command leaves `CFG.PRE`. -/
theorem exec_wire_cfgPre {i : Instr} {s t : State} (hwire : i.isWire = true)
    (h : exec i s = .next t) : t.cfgPre = s.cfgPre := by
  obtain ⟨hkeep, -⟩ := elementsWrittenByTable i s t h
  exact hkeep fun p hp => nomatch hp ▸ hwire

/-- Settles O27: each send appends its frame, and the first leaves `CFG.PRE` for the second. -/
theorem sendsKeepProgramOrder : Obligations.SendsKeepProgramOrder := by
  intro i j s t u hi hj hiwf hjwf hfirst hs hsecond ht
  have hpre := exec_wire_cfgPre hi hs
  obtain rfl := exec_next hs
  obtain rfl := exec_next ht
  rw [← hpre] at hsecond
  rw [updateOf_accepted_outbound hj hjwf hsecond, updateOf_accepted_outbound hi hiwf hfirst, hpre]

/-! ### A write that fails (R204, R208) -/

theorem raise_kind (o : OpOutcome) (s : State) : (raise o s).kind = o.kind := by
  cases o <;> rfl

/-- R207: `raise` ends an operation that has cleared `RES.VALID` in its outcome. -/
theorem endedIn_raise {s : State} (o : OpOutcome) (h : s.res.valid = false) :
    EndedIn (raise o s) o where
  status := rfl
  info := rfl
  returned := rfl
  mode := rfl
  valid := h
  everFailed := rfl
  kind := raise_kind o s

/-- R57: an answer below the frame's length is not cut. -/
theorem busWrite_short {frame : List Byte} {b : Bus} {count : Nat} (h : b.nextWrite = .ok count)
    (hc : count < frame.length) : (busWrite frame b).1 = .ok count := by
  simp [busWrite, h, cutAnswer, Nat.min_eq_left hc.le]

theorem busWrite_fails {frame : List Byte} {b : Bus} {e sent : Nat}
    (h : b.nextWrite = .err e sent) : (busWrite frame b).1 = .err e (min sent frame.length) := by
  simp [busWrite, h, cutAnswer]

/-- Settles O25: both answers end the send by `raise`; the transport has the bytes that went out and
nothing was read. -/
theorem sendErrorsAreIoErrors : Obligations.SendErrorsAreIoErrors := by
  intro i s hwire hwf hm
  have hexec : exec i s = .next (updateOf i s) :=
    (exec_operation (fun _ _ _ _ _ hi => nomatch hi ▸ hwire) s).trans (whenIdle_idle _ hm)
  have hbus := updateOf_wire_bus hwire hwf s
  obtain ⟨x, he, -, hvalid⟩ := updateOf_ends_write hwire hwf s
  refine ⟨fun e sent ha => ⟨_, hexec, ?_, ?_, ?_⟩, fun count ha hc => ⟨_, hexec, ?_, ?_, ?_⟩⟩
  · rw [he, busWrite_fails ha]
    exact endedIn_raise _ hvalid
  · rw [hbus, busWrite_inbound]
  · rw [hbus, busWrite_outbound, busWrite_fails ha, bytesOut, ← List.take_take, List.take_length]
  · rw [he, busWrite_short ha hc, endSend, if_pos hc]
    exact endedIn_raise _ hvalid
  · rw [hbus, busWrite_inbound]
  · rw [hbus, busWrite_outbound, busWrite_short ha hc, bytesOut]

/-! ### Append-only (R57, R60) -/

/-- R131, R153, R160: what is no admitted wire command puts nothing on the bus. -/
theorem updateOf_sends_nothing {i : Instr} (h : ¬ (i.isWire = true ∧ i.wf = true)) (s : State) :
    (updateOf i s).bus.outbound = s.bus.outbound := by
  cases i with
  | setaddr | writereg | readreg | inactive => exact absurd ⟨rfl, rfl⟩ h
  | sendjob j n d m k ms =>
    rcases sendJob_cases j n d m k ms s with ⟨_, he⟩ | ⟨hcount, _⟩
    · rw [updateOf, he]; rfl
    · exact absurd ⟨rfl, by simpa [Instr.wf] using hcount⟩ h
  | recv => simp [updateOf, receive_frame]
  | resp | crc5 | crc16 | cfgpre => rfl

theorem takeReject_outbound {r : Reject} {s t : State} (h : takeReject r s = .next t) :
    t.bus.outbound = s.bus.outbound := by
  cases r with
  | descriptor why => rw [(whenIdle_next h).2]; rfl
  | noise bytes => cases h; rfl

/-- Settles O43: only an admitted wire command writes, and what goes out heads its frame. -/
theorem outboundOnlyGrows : Obligations.OutboundOnlyGrows := by
  intro s t h
  rcases step_cases s with ⟨_, hs⟩ | ⟨r, rest, i, hp, hd, hs⟩ | ⟨_, rest, _, _, _, hs⟩ <;>
    rw [hs] at h
  · cases h
    exact .inl rfl
  · obtain rfl := exec_next h
    by_cases hi : i.isWire = true ∧ i.wf = true
    · obtain ⟨hwire, hwf⟩ := hi
      exact .inr ⟨r, rest, i, _, hp, hd, hwire, hwf,
        by rw [updateOf_wire_bus hwire hwf, busWrite_outbound]; rfl⟩
    · exact .inl (updateOf_sends_nothing hi _)
  · exact .inl (takeReject_outbound (s := setPending rest s) h)

end Sys2Proof.Proofs
end

section
/-!
PROOFS. How a `RECV` ends by what its one read gave, and what it takes from the inbound stream (R58,
R160, R205, R208).
-/

namespace Sys2Proof.Proofs

open Machine

/-! ### The outcome of a `RECV` -/

theorem receive_eq (s : State) : receive s = endRecv (busRead (respLen s.cfgPre) s.bus).1
    (setBus (busRead (respLen s.cfgPre) s.bus).2 (setIdx 0 (clearValid s))) := rfl

/-- R58, R160: one `BusRead` of 7 or 9 bytes is all a `RECV` does to the transport. -/
theorem receive_bus (s : State) :
    (receive s).bus = (busRead (respLen s.cfgPre) s.bus).2 := by simp [receive_frame]

/-- R246: the block gets no answer exactly when the call does not return. -/
theorem busRead_never_iff (n : Nat) (b : Bus) :
    (busRead n b).1 = .never ↔ ∃ taken, b.nextRead.result = .never taken := by
  rw [busRead_fst]
  cases b.nextRead.result <;> simp [readOutcome]

/-- R163, R164, R205: a response of the right length behind the right preamble is judged by its
checksum. -/
theorem expectedOutcome_wireIn {pre : Bool} {body : List Byte}
    (h : (wireIn pre body).length = respLen pre) :
    expectedOutcome pre (.ok (wireIn pre body))
      = if crc5 body ≠ 0 then some .checksumError else none := by
  cases pre <;> simp_all [expectedOutcome, wireIn, respLen, preambleIn]

/-- R205: the checks of a response end in the first outcome expected of it, or in a result. -/
theorem checkResponse_outcome (w : List Byte) (s : State) :
    (∃ o x, expectedOutcome s.cfgPre (.ok w) = some o ∧
      checkResponse w s = raise o x ∧ x.res = s.res) ∨
    (expectedOutcome s.cfgPre (.ok w) = none ∧ ∃ v c g x,
      checkResponse w s = finish (.response v c g) (latchRes v c g x)) := by
  rcases checkResponse_cases w s with ⟨hl, he⟩ | ⟨hl, hp, hw, he⟩ | ⟨n, body, hl, _, rfl, he⟩
  · exact .inl ⟨_, _, if_pos hl, he, rfl⟩
  · exact .inl ⟨_, _, (if_neg (not_not_intro hl)).trans (if_pos ⟨hp, hw⟩), he, rfl⟩
  · rw [expectedOutcome_wireIn hl, he]
    rcases checkBody_cases n body s with ⟨hc, hb⟩ | ⟨hc, hb⟩
    · exact .inl ⟨_, _, if_pos hc, hb, rfl⟩
    · exact .inr ⟨if_neg (not_not_intro hc), _, _, _, _, hb⟩

/-- R160, R205, R246: a `RECV` ends in the outcome expected of what its read gave, with `RES.VALID`
cleared; or in a result; or its read never returns. -/
theorem receive_outcome (s : State) :
    (∃ o x, expectedOutcome s.cfgPre (busRead (respLen s.cfgPre) s.bus).1 = some o ∧
      receive s = raise o x ∧ x.res = { s.res with valid := false }) ∨
    (expectedOutcome s.cfgPre (busRead (respLen s.cfgPre) s.bus).1 = none ∧ ∃ v c g x,
      receive s = finish (.response v c g) (latchRes v c g x)) ∨
    (∃ taken, s.bus.nextRead.result = .never taken) := by
  rw [receive_eq]
  cases hr : (busRead (respLen s.cfgPre) s.bus).1 with
  | timeout => exact .inl ⟨_, _, rfl, rfl, rfl⟩
  | err e => exact .inl ⟨_, _, rfl, rfl, rfl⟩
  | never => exact .inr (.inr ((busRead_never_iff _ _).1 hr))
  | ok w =>
    rcases checkResponse_outcome w (storeRx w (setBus (busRead (respLen s.cfgPre) s.bus).2
      (setIdx 0 (clearValid s)))) with ⟨o, x, ho, he, hres⟩ | ⟨ho, he⟩
    · exact .inl ⟨o, x, ho, he, hres⟩
    · exact .inr (.inl ⟨ho, he⟩)

/-! ### What a `RECV` takes from the inbound stream -/

/-- R162, R200: only `FramingError(Length(k))` records a count. -/
theorem info_count {o : OpOutcome} {k : Nat} (h : o.info = .count k) : o = .framingLength k := by
  cases o with
  | framingLength count => cases h; rfl
  | _ => exact nomatch h

/-- R162: a length error counts the bytes that the read gave. -/
theorem expectedOutcome_framingLength {pre : Bool} {r : ReadOutcome} {k : Nat}
    (h : expectedOutcome pre r = some (.framingLength k)) : ∃ w, r = .ok w ∧ w.length = k := by
  cases r with
  | timeout => exact nomatch h
  | err e => exact nomatch h
  | never => exact nomatch h
  | ok w =>
    refine ⟨w, rfl, ?_⟩
    by_cases hl : w.length ≠ if pre then 9 else 7
    · rw [expectedOutcome, if_pos hl] at h
      cases h
      rfl
    · rw [expectedOutcome, if_neg hl] at h
      split_ifs at h <;> exact nomatch h

/-- R58, R162: after `FramingError(Length(k))` the stream has lost exactly the `k` bytes given. -/
theorem receive_count {s : State} {k : Nat} (h : (receive s).info = .count k) :
    k + (receive s).bus.inbound.length = (s.bus.inbound ++ s.bus.nextRead.arriving).length ∨
      ∃ taken, s.bus.nextRead.result = .never taken := by
  rcases receive_outcome s with ⟨o, x, ho, he, _⟩ | ⟨_, v, c, g, x, he⟩ | hnever
  · rw [he, raise_info] at h
    obtain rfl := info_count h
    obtain ⟨w, hw, rfl⟩ := expectedOutcome_framingLength ho
    exact .inl (by rw [receive_bus, ← busRead_consumes hw, List.length_append])
  · rw [he] at h
    exact nomatch h
  · exact .inr hnever

/-- Settles O30: what `BusRead` takes and leaves, and the count of a length error. -/
theorem recvConsumesWhatItWasGiven : Obligations.RecvConsumesWhatItWasGiven := by
  intro s t h
  obtain rfl : t = receive s := exec_next h
  refine ⟨by rw [receive_bus, busRead_outbound], ?_, fun k hinfo _ => receive_count hinfo⟩
  rw [receive_bus, busRead_inbound]
  cases s.bus.nextRead.result <;> rfl

/-! ### The operation after a `CFGPRE` (R66, R140) -/

/-- R82: the preamble of a frame is asked for by `CFG.PRE` alone. -/
theorem frameOf_eq (c : Crc16Params) (p : Bool) (i : Instr) :
    frameOf c p i = (if p then [0x55, 0xAA] else []) ++ bodyOf c i := by
  cases p <;> rfl

/-- Settles O37: `CFGPRE p` leaves the transport, and an idle block with `CFG.PRE = p`, by which the
next operation forms its frame, or asks for and checks its response. -/
theorem cfgpreTakesEffectNext : Obligations.CfgpreTakesEffectNext := by
  intro p s t h
  obtain rfl : t = finish .nothing (setPre p s) := exec_next h
  constructor
  · intro i u hwire hwf hacc hu
    obtain rfl := exec_next hu
    rw [← frameOf_eq]
    exact updateOf_accepted_outbound (s := finish .nothing (setPre p s)) hwire hwf hacc
  · intro hret
    refine ⟨receive (finish .nothing (setPre p s)), rfl, by rw [receive_bus]; rfl, ?_⟩
    rcases receive_outcome (finish .nothing (setPre p s)) with
      ⟨o, x, ho, he, hres⟩ | ⟨ho, v, c, g, x, he⟩ | ⟨taken, hnever⟩
    · rw [show expectedOutcome p (busRead (if p then 9 else 7) s.bus).1 = some o from ho, he]
      exact endedIn_raise o (hres ▸ rfl)
    · rw [show expectedOutcome p (busRead (if p then 9 else 7) s.bus).1 = none from ho, he]
      exact ⟨rfl, rfl⟩
    · exact absurd hnever (hret taken)

end Sys2Proof.Proofs
end

section
/-!
PROOFS. Bytes cut out of a sequence and put back: the conversions of R10 and R89 undone from the side of
the bytes.
-/

namespace Sys2Proof.Proofs

open Machine

/-- R10: the four bytes of a word assembled from four bytes are those bytes. -/
theorem be32_append (a b c d : Byte) : be32 (a ++ b ++ c ++ d) = [a, b, c, d] := by
  have high {n : Nat} (x : BitVec n) (y : Byte) (k : Nat) :
      (x ++ y).extractLsb' (k + 8) 8 = x.extractLsb' k 8 :=
    BitVec.extractLsb'_append_eq_of_le (Nat.le_add_left 8 k)
  have low {n : Nat} (x : BitVec n) (y : Byte) : (x ++ y).extractLsb' 0 8 = y :=
    BitVec.extractLsb'_append_eq_right
  have ha : (a ++ b ++ c ++ d).extractLsb' 24 8 = a := by
    rw [high _ _ 16, high _ _ 8, high _ _ 0, BitVec.extractLsb'_eq_self]
  have hb : (a ++ b ++ c ++ d).extractLsb' 16 8 = b := by rw [high _ _ 8, high _ _ 0, low]
  have hc : (a ++ b ++ c ++ d).extractLsb' 8 8 = c := by rw [high _ _ 0, low]
  have hd : (a ++ b ++ c ++ d).extractLsb' 0 8 = d := low _ _
  exact congrArg₂ _ ha (congrArg₂ _ hb (congrArg₂ _ hc (congrArg (· :: []) hd)))

/-- `n` bytes of a sequence from index `k` on, by index. -/
theorem take_drop_eq_map_byteAt {w : List Byte} {k n : Nat} (h : k + n ≤ w.length) :
    (w.drop k).take n = (List.range n).map fun j => byteAt w (k + j) := by
  refine List.ext_getElem (by simp; omega) fun j hj _ => ?_
  have hjn : j < n := by simp at hj; omega
  simp [byteAt, show k + j < w.length by omega]

theorem take_four {w : List Byte} (h : 4 ≤ w.length) :
    w.take 4 = [byteAt w 0, byteAt w 1, byteAt w 2, byteAt w 3] :=
  take_drop_eq_map_byteAt (k := 0) (n := 4) (by omega)

theorem be32_be32At {w : List Byte} {k : Nat} (h : k + 4 ≤ w.length) :
    be32 (be32At w k) = (w.drop k).take 4 := by
  rw [take_drop_eq_map_byteAt h]
  exact be32_append ..

theorem le32_le32At {w : List Byte} {k : Nat} (h : k + 4 ≤ w.length) :
    le32 (le32At w k) = (w.drop k).take 4 := by
  rw [take_drop_eq_map_byteAt h]
  exact congrArg List.reverse (be32_append ..)

theorem midstateAt_toList {w : List Byte} {k : Nat} (h : k + 32 ≤ w.length) :
    (midstateAt w k).toList = (w.drop k).take 32 := by
  rw [take_drop_eq_map_byteAt h, midstateAt, Vector.toList_ofFn, List.ofFn_eq_map]
  rfl

/-- R85: the bytes of the midstates read from a body are the bytes they were read from. -/
theorem midstateBytes_midstatesAt {w : List Byte} {n : Nat} (h : 20 + 32 * n ≤ w.length) :
    midstateBytes (midstatesAt w n) = (w.drop 20).take (32 * n) := by
  induction n with
  | zero => rfl
  | succ n ih =>
    have hsucc : midstatesAt w (n + 1) = midstatesAt w n ++ [midstateAt w (20 + 32 * n)] := by
      simp [midstatesAt, List.range_succ]
    have hlast : midstateBytes [midstateAt w (20 + 32 * n)]
        = ((w.drop 20).drop (32 * n)).take 32 := by
      rw [midstateBytes_cons, midstateBytes_nil, List.append_nil, midstateAt_toList (by omega),
        List.drop_drop]
    rw [hsucc, midstateBytes, List.flatMap_append, ← midstateBytes, ← midstateBytes,
      ih (by omega), hlast, ← List.take_add]
    rfl

end Sys2Proof.Proofs
end

section
/-!
PROOFS. The opcode byte and the length byte of an outgoing body (R84, R87, R88, R91, R97).
-/

namespace Sys2Proof.Proofs

open Machine

/-! ### The opcode map -/

/-- R97: two rows that select one byte 0 agree on the bits that both of them look at. -/
theorem selects_agree {op : Byte} {r q : OpRow} (hr : r.selects op = true)
    (hq : q.selects op = true) : r.pat &&& q.mask = q.pat &&& r.mask := by
  rw [← eq_of_beq hr, ← eq_of_beq hq, BitVec.and_assoc, BitVec.and_assoc, BitVec.and_comm r.mask]

/-- Settles O5: any two of the five rows differ in a bit that both of them look at. -/
theorem opcodeRowsDisjoint : Obligations.OpcodeRowsDisjoint := by
  intro op r q hr hq hrs hqs
  have differ : ∀ r ∈ opRows, ∀ q ∈ opRows, r.pat &&& q.mask = q.pat &&& r.mask → r = q := by decide
  exact differ r hr q hq (selects_agree hrs hqs)

/-- R91: the map of byte 0, value by value. -/
theorem commandOf_eq : ∀ op : Byte, commandOf op =
    if op = 0x21 then some .sendjob
    else if op = 0x40 ∨ op = 0x50 then some .setaddr
    else if op = 0x41 ∨ op = 0x51 then some .writereg
    else if op = 0x42 ∨ op = 0x52 then some .readreg
    else if op = 0x43 ∨ op = 0x53 then some .inactive
    else none := by
  decide +kernel

/-- R87: the opcode of a command, without the broadcast flag. -/
def opcodeOf : Command → Byte
  | .setaddr => 0x40
  | .writereg => 0x41
  | .readreg => 0x42
  | .inactive => 0x43
  | .sendjob => 0x21

/-- R84: the payload bytes of a control command; the job's depend on its midstates. -/
def payloadLen : Command → Nat
  | .writereg => 4
  | .setaddr | .readreg | .inactive | .sendjob => 0

theorem commandOf_opByte {c : Command} (hc : c ≠ .sendjob) (b : Bool) :
    commandOf (opByte (opcodeOf c) b) = some c := by
  obtain ⟨⟨-, hset, -⟩, ⟨-, hwrite, -⟩, ⟨-, hread, -⟩, -, hinact, -⟩ := Laws.opByte_spells b
  cases c with
  | setaddr => exact hset
  | writereg => exact hwrite
  | readreg => exact hread
  | inactive => exact hinact
  | sendjob => exact absurd rfl hc

/-- R87, R91: a byte 0 that spells a command is its opcode with the flag of bit 4. -/
theorem opByte_of_commandOf {op : Byte} {c : Command} (h : commandOf op = some c) :
    opByte (opcodeOf c) (broadcastOf op) = op := by
  have spelled : ∀ op : Byte,
      ((commandOf op).all fun c => opByte (opcodeOf c) (broadcastOf op) = op) = true := by
    decide +kernel
  simpa [h] using spelled op

theorem eq_0x21_of_commandOf {op : Byte} (h : commandOf op = some .sendjob) : op = 0x21 := by
  have hop := opByte_of_commandOf h
  cases hb : broadcastOf op with
  | false => exact hop.symm.trans (by rw [hb]; rfl)
  | true =>
    rw [← hop, hb] at h
    exact absurd h (by decide)

/-! ### The bodies of the wire commands -/

/-- R130: every control command encodes by `encode_ctl` with the opcode and payload length of its
command; the one other wire command is the job. -/
theorem bodyOf_cases {i : Instr} (hwire : i.isWire = true) :
    (∃ c b chip reg payload, c ≠ Command.sendjob ∧ payload.length = payloadLen c ∧
      ∀ p, bodyOf p i = encodeCtl (opcodeOf c) b chip reg payload) ∨
    ∃ j n d t k ms, i = .sendjob j n d t k ms := by
  cases i with
  | setaddr b chip reg => exact .inl ⟨.setaddr, b, chip, reg, [], nofun, rfl, fun _ => rfl⟩
  | writereg b chip reg v => exact .inl ⟨.writereg, b, chip, reg, be32 v, nofun, rfl, fun _ => rfl⟩
  | readreg b chip reg => exact .inl ⟨.readreg, b, chip, reg, [], nofun, rfl, fun _ => rfl⟩
  | inactive b chip reg => exact .inl ⟨.inactive, b, chip, reg, [], nofun, rfl, fun _ => rfl⟩
  | sendjob j n d t k ms => exact .inr ⟨j, n, d, t, k, ms, rfl⟩
  | resp | recv | crc5 | crc16 | cfgpre => exact nomatch hwire

/-- Settles O4: the map of all values, and the byte 0 that the encoder writes for each command. -/
theorem opcodeMapComplete : Obligations.OpcodeMapComplete := by
  refine ⟨commandOf_eq, fun p i hwire => ?_⟩
  rcases bodyOf_cases hwire with ⟨c, b, chip, reg, payload, hc, -, hbody⟩ | ⟨j, n, d, t, k, ms, rfl⟩
  · have hop : byteAt (bodyOf p i) 0 = opByte (opcodeOf c) b := by rw [hbody]; rfl
    rw [hop, commandOf_opByte hc]
    nofun
  · have hop : byteAt (bodyOf p (.sendjob j n d t k ms)) 0 = 0x21 := rfl
    rw [hop]
    decide

theorem opByte_bits (b : Bool) : ∀ op ∈ [0x40, 0x41, 0x42, (0x43 : Byte)],
    opByte op b = op ||| (if b then 0x10 else 0x00) ∧ opByte op b = op + (if b then 0x10 else 0x00) ∧
    (opByte op b).getLsbD 4 = b ∧ (opByte op b).extractLsb' 5 3 = 0b010 ∧
    (opByte op b).extractLsb' 0 4 = op.extractLsb' 0 4 := by
  cases b <;> decide

/-- Settles O6: the encoder writes `opByte` of the opcode, which sets bit 4 and no other. -/
theorem opcodeByteCarriesBroadcast : Obligations.OpcodeByteCarriesBroadcast := by
  intro p b chip reg v
  refine ⟨?_, ?_, ?_, ?_, fun _ _ _ _ _ _ => rfl, opByte_bits b⟩
  all_goals cases b <;> rfl

theorem lenByte_toNat {payload trailer : Nat} (h : 4 + payload + trailer < 256) :
    (lenByte payload trailer).toNat = 4 + payload + trailer :=
  (BitVec.toNat_ofNat _ _).trans (Nat.mod_eq_of_lt h)

theorem lenByte_eq {payload trailer : Nat} {x : Byte} (h : x.toNat = 4 + payload + trailer) :
    lenByte payload trailer = x :=
  BitVec.eq_of_toNat_eq ((lenByte_toNat (h ▸ x.isLt)).trans h.symm)

theorem jobPayload_length (n d t k : Word) (ms : List Midstate) :
    (jobPayload n d t k ms).length = 16 + 32 * ms.length := by
  simp [jobPayload]
  omega

theorem jobHead_length (j : Byte) (n d t k : Word) (ms : List Midstate) :
    (jobHead j n d t k ms).length = 20 + 32 * ms.length := by
  simp [jobHead, jobPayload_length]
  omega

/-- R88: the length byte of a control command counts its body. -/
theorem encodeCtl_lengthByte (op : Byte) (b : Bool) (chip reg : Byte) {payload : List Byte}
    (h : payload.length ≤ 4) :
    (byteAt (encodeCtl op b chip reg payload) 1).toNat = (encodeCtl op b chip reg payload).length := by
  have hbyte : byteAt (encodeCtl op b chip reg payload) 1 = lenByte payload.length 1 := rfl
  rw [hbyte, lenByte_toNat (by omega), encodeCtl_length]
  omega

/-- R88: the length byte of a job of at most 4 midstates counts its body. -/
theorem encodeJob_lengthByte (p : Crc16Params) (j : Byte) (n d t k : Word) {ms : List Midstate}
    (h : ms.length ≤ 4) :
    (byteAt (encodeJob p j n d t k ms) 1).toNat = (encodeJob p j n d t k ms).length := by
  have hbyte : byteAt (encodeJob p j n d t k ms) 1
      = lenByte (jobPayload n d t k ms).length 2 := rfl
  rw [hbyte, jobPayload_length, lenByte_toNat (by omega), encodeJob_length]
  omega

theorem payloadLen_le (c : Command) : payloadLen c ≤ 4 := by
  cases c <;> decide

theorem bodyOf_lengthByte (p : Crc16Params) {i : Instr} (hwire : i.isWire = true)
    (hwf : i.wf = true) : (byteAt (bodyOf p i) 1).toNat = (bodyOf p i).length := by
  rcases bodyOf_cases hwire with ⟨c, b, chip, reg, payload, -, hlen, hbody⟩ | ⟨j, n, d, t, k, ms, rfl⟩
  · rw [hbody]
    exact encodeCtl_lengthByte _ b chip reg (hlen ▸ payloadLen_le c)
  · have hcount : 1 ≤ ms.length ∧ ms.length ≤ 4 := by simpa [Instr.wf] using hwf
    exact encodeJob_lengthByte p j n d t k hcount.2

/-- Settles O7: the encoder's length byte counts the body, whose length is that of its format. -/
theorem lengthByteCountsBody : Obligations.LengthByteCountsBody := by
  intro p i hwire hwf
  refine ⟨bodyOf_lengthByte p hwire hwf, ?_⟩
  cases i with
  | setaddr | readreg | inactive => exact ⟨rfl, (by decide : 5 ∈ [5, 9, 54, 86, 118, 150])⟩
  | writereg => exact ⟨rfl, (by decide : 9 ∈ [5, 9, 54, 86, 118, 150])⟩
  | sendjob j n d t k ms =>
    have hcount : 1 ≤ ms.length ∧ ms.length ≤ 4 := by simpa [Instr.wf] using hwf
    have hlen := encodeJob_length p j n d t k ms
    refine ⟨hlen.trans (by simp only; omega), hlen ▸ ?_⟩
    obtain h | h | h | h : ms.length = 1 ∨ ms.length = 2 ∨ ms.length = 3 ∨ ms.length = 4 := by omega
    all_goals simp [h]
  | resp | recv | crc5 | crc16 | cfgpre => exact nomatch hwire

/-! ### The layout of a job (R85) -/

/-- R85: the 20 bytes of a job's body before its midstates. -/
def jobFields (j : Byte) (n d t k : Word) (ms : List Midstate) : List Byte :=
  [0x21, lenByte (jobPayload n d t k ms).length 2, j, BitVec.ofNat 8 ms.length]
    ++ (le32 n ++ le32 d ++ le32 t ++ le32 k)

theorem jobHead_eq (j : Byte) (n d t k : Word) (ms : List Midstate) :
    jobHead j n d t k ms = jobFields j n d t k ms ++ midstateBytes ms := by
  simp [jobHead, jobFields, jobPayload]

/-- R85: byte `i` of midstate `q` stands at `20 + 32q + i` of a job's body. -/
theorem byteAt_encodeJob_midstate (p : Crc16Params) (j : Byte) (n d t k : Word)
    {ms : List Midstate} (q : Fin ms.length) (i : Fin 32) :
    byteAt (encodeJob p j n d t k ms) (20 + 32 * q.val + i.val) = ms[q][i] := by
  rw [encodeJob, jobHead_eq, List.append_assoc,
    show 20 + 32 * q.val + i.val = (jobFields j n d t k ms).length + (32 * q.val + i.val) from
      Nat.add_assoc .., byteAt_append_right]
  exact byteAt_midstateBytes ms _ q.val q.isLt i

/-- R85: byte 3 of a job's body is its midstate count. -/
theorem byteAt_encodeJob_count (p : Crc16Params) (j : Byte) (n d t k : Word) {ms : List Midstate}
    (h : ms.length ≤ 4) : (byteAt (encodeJob p j n d t k ms) 3).toNat = ms.length :=
  (BitVec.toNat_ofNat _ _).trans (Nat.mod_eq_of_lt (by omega))

/-- Settles O9: the fields before the midstates stand at fixed places, the midstates behind them, and
the trailer behind `jobHead`. -/
theorem jobFrameLayout : Obligations.JobFrameLayout := by
  intro p j n d t k ms pre hmin hmax body
  have hlen : body.length = 22 + 32 * ms.length := encodeJob_length p j n d t k ms
  have hhead := jobHead_length j n d t k ms
  have htake : body.take (20 + 32 * ms.length) = jobHead j n d t k ms := List.take_left' hhead
  have htrailer (x : Nat) : byteAt body (20 + 32 * ms.length + x)
      = byteAt (be16 (crc16With p (jobHead j n d t k ms))) x := by
    rw [← hhead]
    exact byteAt_append_right ..
  refine ⟨hlen, by rw [wireOut_length, hlen], rfl,
    (encodeJob_lengthByte p j n d t k hmax).trans hlen, rfl,
    byteAt_encodeJob_count p j n d t k hmax, append_extracts n, append_extracts d,
    append_extracts t, append_extracts k,
    byteAt_encodeJob_midstate p j n d t k, ?_, ?_⟩
  · rw [htake]
    exact htrailer 0
  · rw [htake, show 21 + 32 * ms.length = 20 + 32 * ms.length + 1 by omega]
    exact htrailer 1

end Sys2Proof.Proofs
end

section
/-!
PROOFS. The strict frame decoder and the encoder are inverse to each other (R94).
-/

namespace Sys2Proof.Proofs

open Machine

/-! ### What the decoder checks -/

theorem stripOut_eq_some {pre : Bool} {w body : List Byte} :
    stripOut pre w = some body ↔ w = wireOut pre body := by
  cases pre with
  | false => simp [stripOut, wireOut]
  | true =>
    refine ⟨fun h => ?_, fun h => h ▸ rfl⟩
    rw [stripOut, if_pos rfl] at h
    split at h
    next htake => rw [wireOut, if_pos rfl, ← htake, ← Option.some.inj h, List.take_append_drop]
    next => exact nomatch h

/-- R88, R90, R94: the checks of a stripped frame as the body of the command `c`. -/
structure FrameChecks (p : Crc16Params) (c : Command) (body : List Byte) : Prop where
  lengthByte : (byteAt body 1).toNat = body.length
  opcode : commandOf (byteAt body 0) = some c
  format : formatLengthOk c body = true
  trailer : trailerOk p c body = true

theorem formatLengthOk_control {c : Command} (hc : c ≠ .sendjob) (body : List Byte) :
    formatLengthOk c body = true ↔ body.length = 5 + payloadLen c := by
  cases c with
  | sendjob => exact absurd rfl hc
  | setaddr | writereg | readreg | inactive => exact beq_iff_eq

theorem formatLengthOk_job (body : List Byte) :
    formatLengthOk .sendjob body = true ↔ (1 ≤ (byteAt body 3).toNat ∧ (byteAt body 3).toNat ≤ 4) ∧
      body.length = 22 + 32 * (byteAt body 3).toNat := by
  simp [formatLengthOk]

/-- R94: no format is shorter than 5 bytes. -/
theorem five_le_of_formatLengthOk {c : Command} {body : List Byte}
    (h : formatLengthOk c body = true) : 5 ≤ body.length := by
  by_cases hc : c = .sendjob
  · subst hc
    have hlen := ((formatLengthOk_job body).1 h).2
    omega
  · have hlen := (formatLengthOk_control hc body).1 h
    omega

/-- R94: the decoder answers exactly for a wired body that passes the checks, what the port's decoder
reads from it. -/
theorem decodeFrame_eq_ok {p : Crc16Params} {pre : Bool} {w : List Byte} {i : Instr} :
    decodeFrame p pre w = .ok i ↔
      ∃ body c, w = wireOut pre body ∧ FrameChecks p c body ∧ decodeCommand body = .ok i := by
  constructor
  · intro h
    unfold decodeFrame at h
    split at h
    · exact nomatch h
    rename_i body hstrip
    split at h
    · exact nomatch h
    split at h
    · exact nomatch h
    rename_i hlen
    split at h
    · exact nomatch h
    rename_i c hop
    split at h
    · exact nomatch h
    rename_i hformat
    split at h
    · exact nomatch h
    rename_i htrailer
    split at h
    · rename_i hd
      refine ⟨body, c, stripOut_eq_some.1 hstrip, ?_, Except.ok.inj h ▸ hd⟩
      exact ⟨not_not.1 hlen, hop, by simpa using hformat, by simpa using htrailer⟩
    · exact nomatch h
  · rintro ⟨body, c, hw, ⟨hlen, hop, hformat, htrailer⟩, hd⟩
    have hshort : ¬ body.length < 5 := not_lt.2 (five_le_of_formatLengthOk hformat)
    simp [decodeFrame, stripOut_eq_some.2 hw, hshort, hlen, hop, hformat, htrailer, hd]

theorem trailerOk_control (p : Crc16Params) {c : Command} (hc : c ≠ .sendjob) (body : List Byte) :
    trailerOk p c body = true ↔
      body.drop (body.length - 1) = [zext8 (crc5 (body.take (body.length - 1)))] := by
  cases c with
  | sendjob => exact absurd rfl hc
  | setaddr | writereg | readreg | inactive => exact beq_iff_eq

theorem trailerOk_job (p : Crc16Params) (body : List Byte) :
    trailerOk p .sendjob body = true ↔
      body.drop (body.length - 2) = be16 (crc16With p (body.take (body.length - 2))) :=
  beq_iff_eq

/-! ### The encoder's bodies pass the checks and are read back -/

theorem encodeCtl_checks (p : Crc16Params) {c : Command} (hc : c ≠ .sendjob) (b : Bool)
    (chip reg : Byte) {payload : List Byte} (h : payload.length = payloadLen c) :
    FrameChecks p c (encodeCtl (opcodeOf c) b chip reg payload) where
  lengthByte := encodeCtl_lengthByte _ b chip reg (h ▸ payloadLen_le c)
  opcode := commandOf_opByte hc b
  format := by rw [formatLengthOk_control hc, encodeCtl_length, h]
  trailer := by
    rw [trailerOk_control p hc]
    simp [encodeCtl]

theorem encodeJob_checks (p : Crc16Params) (j : Byte) (n d t k : Word) {ms : List Midstate}
    (hmin : 1 ≤ ms.length) (hmax : ms.length ≤ 4) :
    FrameChecks p .sendjob (encodeJob p j n d t k ms) where
  lengthByte := encodeJob_lengthByte p j n d t k hmax
  opcode := by
    have hop : byteAt (encodeJob p j n d t k ms) 0 = 0x21 := rfl
    rw [hop]
    decide
  format := by
    rw [formatLengthOk_job, byteAt_encodeJob_count p j n d t k hmax, encodeJob_length]
    exact ⟨⟨hmin, hmax⟩, rfl⟩
  trailer := by
    rw [trailerOk_job]
    simp [encodeJob]

theorem bodyOf_checks (p : Crc16Params) {i : Instr} (hwire : i.isWire = true) (hwf : i.wf = true) :
    ∃ c, FrameChecks p c (bodyOf p i) := by
  rcases bodyOf_cases hwire with
    ⟨c, b, chip, reg, payload, hc, hlen, hbody⟩ | ⟨j, n, d, t, k, ms, rfl⟩
  · exact ⟨c, hbody p ▸ encodeCtl_checks p hc b chip reg hlen⟩
  · obtain ⟨hmin, hmax⟩ : 1 ≤ ms.length ∧ ms.length ≤ 4 := by simpa [Instr.wf] using hwf
    exact ⟨.sendjob, encodeJob_checks p j n d t k hmin hmax⟩

/-- R94: the port's decoder reads an admitted command from its body, under any CRC-16 variant. -/
theorem decodeCommand_bodyOf (p : Crc16Params) {i : Instr} (hwire : i.isWire = true)
    (hwf : i.wf = true) : decodeCommand (bodyOf p i) = .ok i := by
  cases i with
  | setaddr b chip reg => exact Laws.RequestRoundTrip.setaddr b chip reg hwf
  | writereg b chip reg v => exact Laws.RequestRoundTrip.writereg b chip reg v hwf
  | readreg b chip reg => exact Laws.RequestRoundTrip.readreg b chip reg hwf
  | inactive b chip reg => exact Laws.RequestRoundTrip.inactive b chip reg hwf
  | sendjob j n d t k ms =>
    have hcount : 1 ≤ ms.length ∧ ms.length ≤ 4 := by simpa [Instr.wf] using hwf
    exact (Laws.decodeCommand_of 0x21 _ .sendjob (by decide) (by decide)).trans
      (Laws.decodeJ_image _ j n d t k ms _ _ (by omega))
  | resp | recv | crc5 | crc16 | cfgpre => exact nomatch hwire

/-- Settles O2: the encoded body passes every check and the port's decoder reads the command from it. -/
theorem frameDecodeInvertsEncode : Obligations.FrameDecodeInvertsEncode := by
  intro p pre i hwire hwf
  obtain ⟨c, hchecks⟩ := bodyOf_checks p hwire hwf
  exact decodeFrame_eq_ok.2 ⟨bodyOf p i, c, rfl, hchecks, decodeCommand_bodyOf p hwire hwf⟩

/-- Settles O24: an accepted write appends the frame (R57), which O2 reads back. -/
theorem sentBytesDecodeToCommand : Obligations.SentBytesDecodeToCommand := by
  intro i s hwire hwf hm hacc
  have hexec : exec i s = .next (updateOf i s) :=
    (exec_operation (fun _ _ _ _ _ hi => nomatch hi ▸ hwire) s).trans (whenIdle_idle _ hm)
  have hout := updateOf_accepted_outbound hwire hwf hacc
  refine ⟨_, hexec, hout, ?_⟩
  rw [hout, List.drop_left]
  exact frameDecodeInvertsEncode Config.crc16 s.cfgPre i hwire hwf

/-! ### A body that passes the checks is the encoder's -/

/-- R81, R83, R90: the checks leave of a control body only its operands free. -/
theorem eq_encodeCtl_of_checks {p : Crc16Params} {c : Command} {body : List Byte}
    (hc : c ≠ .sendjob) (h : FrameChecks p c body) :
    body = encodeCtl (opcodeOf c) (broadcastOf (byteAt body 0)) (byteAt body 2) (byteAt body 3)
      ((body.drop 4).take (payloadLen c)) := by
  obtain ⟨hlenByte, hop, hformat, htrailer⟩ := h
  have hlen := (formatLengthOk_control hc body).1 hformat
  have hpayload : ((body.drop 4).take (payloadLen c)).length = payloadLen c := by simp; omega
  have hhead : ctlHead (opcodeOf c) (broadcastOf (byteAt body 0)) (byteAt body 2) (byteAt body 3)
      ((body.drop 4).take (payloadLen c)) = body.take (body.length - 1) := by
    rw [ctlHead, hpayload, opByte_of_commandOf hop, lenByte_eq (x := byteAt body 1) (by omega),
      ← take_four (by omega), ← List.take_add]
    congr 1
    omega
  rw [encodeCtl, hhead, ← (trailerOk_control p hc body).1 htrailer, List.take_append_drop]

/-- R85: the job id and the words read from a body give back its first 20 bytes, when its opcode,
length and count bytes are those of the job with the midstates `ms`. -/
theorem jobFields_of_body {body : List Byte} {ms : List Midstate} (h : 20 ≤ body.length)
    (hop : byteAt body 0 = 0x21) (hlenByte : (byteAt body 1).toNat = 22 + 32 * ms.length)
    (hcount : (byteAt body 3).toNat = ms.length) :
    jobFields (byteAt body 2) (le32At body 4) (le32At body 8) (le32At body 12) (le32At body 16) ms
      = body.take 20 := by
  have hlen : lenByte (16 + 32 * ms.length) 2 = byteAt body 1 := lenByte_eq (by omega)
  have hnum : BitVec.ofNat 8 ms.length = byteAt body 3 := by
    rw [← hcount, BitVec.ofNat_toNat, BitVec.setWidth_eq]
  rw [jobFields, jobPayload_length, hlen, hnum, ← hop, ← take_four (by omega),
    le32_le32At (by omega), le32_le32At (by omega), le32_le32At (by omega),
    le32_le32At (by omega), show 20 = 4 + (4 + 4 + 4 + 4) from rfl]
  simp only [List.take_add, List.drop_drop]

theorem midstatesAt_length (w : List Byte) (n : Nat) : (midstatesAt w n).length = n := by
  simp [midstatesAt]

/-- R85, R90: the checks leave of a job's body only its operands free. -/
theorem eq_encodeJob_of_checks {p : Crc16Params} {body : List Byte}
    (h : FrameChecks p .sendjob body) :
    body = encodeJob p (byteAt body 2) (le32At body 4) (le32At body 8) (le32At body 12)
      (le32At body 16) (midstatesAt body (byteAt body 3).toNat) := by
  obtain ⟨hlenByte, hop, hformat, htrailer⟩ := h
  obtain ⟨-, hlen⟩ := (formatLengthOk_job body).1 hformat
  have hcount := midstatesAt_length body (byteAt body 3).toNat
  have hhead : jobHead (byteAt body 2) (le32At body 4) (le32At body 8) (le32At body 12)
      (le32At body 16) (midstatesAt body (byteAt body 3).toNat) = body.take (body.length - 2) := by
    rw [jobHead_eq, jobFields_of_body (by omega) (eq_0x21_of_commandOf hop) (by omega) hcount.symm,
      midstateBytes_midstatesAt (by omega), ← List.take_add]
    congr 1
    omega
  rw [encodeJob, hhead, ← (trailerOk_job p body).1 htrailer, List.take_append_drop]

/-- R94: what passes the checks is the body of an admitted command, its operands read at their places. -/
theorem exists_bodyOf_of_checks {p : Crc16Params} {c : Command} {body : List Byte}
    (h : FrameChecks p c body) : ∃ i : Instr, i.isWire = true ∧ i.wf = true ∧ body = bodyOf p i := by
  cases c with
  | setaddr => exact ⟨.setaddr _ _ _, rfl, rfl, eq_encodeCtl_of_checks (c := .setaddr) nofun h⟩
  | readreg => exact ⟨.readreg _ _ _, rfl, rfl, eq_encodeCtl_of_checks (c := .readreg) nofun h⟩
  | inactive => exact ⟨.inactive _ _ _, rfl, rfl, eq_encodeCtl_of_checks (c := .inactive) nofun h⟩
  | writereg =>
    have hlen : body.length = 9 := (formatLengthOk_control (c := .writereg) nofun body).1 h.format
    have hbody := eq_encodeCtl_of_checks (c := .writereg) nofun h
    rw [payloadLen, ← be32_be32At (by omega)] at hbody
    exact ⟨.writereg _ _ _ (be32At body 4), rfl, rfl, hbody⟩
  | sendjob =>
    obtain ⟨hcount, -⟩ := (formatLengthOk_job body).1 h.format
    exact ⟨.sendjob _ _ _ _ _ _, rfl, by simpa [Instr.wf, midstatesAt_length] using hcount,
      eq_encodeJob_of_checks h⟩

/-- Settles O3: what passes the checks is an admitted command's body, and the port's decoder reads that
command from it and no other. -/
theorem frameDecodeIsExact : Obligations.FrameDecodeIsExact := by
  intro p pre w i h
  obtain ⟨body, c, rfl, hchecks, hd⟩ := decodeFrame_eq_ok.1 h
  obtain ⟨i', hwire, hwf, rfl⟩ := exists_bodyOf_of_checks hchecks
  obtain rfl := Except.ok.inj ((decodeCommand_bodyOf p hwire hwf).symm.trans hd)
  exact ⟨hwire, hwf, rfl⟩

end Sys2Proof.Proofs
end

section
/-!
PROOFS. The request port: command images decoded and refused, and response frames (R81 to R86, R92,
R206, R210).
-/

namespace Sys2Proof.Proofs

open Machine

/-- Settles O1: six closed images, each read by the decoder. -/
theorem decodesSpecWords : Obligations.DecodesSpecWords := by
  unfold Obligations.DecodesSpecWords
  decide

/-! ### Payload sizes (R84) -/

/-- R81, R84: a whole `C0` image is read when it has no payload and refused otherwise. -/
theorem decodeC0_whole (mk : Bool → Byte → Byte → Instr) {w : List Byte} (h : 5 ≤ w.length) :
    ∃ i, decodeC0 mk w = if w.length - 5 = 0 then .ok i
      else .error (.descriptor (.payloadSize (w.length - 5))) := by
  refine ⟨mk (broadcastOf (byteAt w 0)) (byteAt w 2) (byteAt w 3), ?_⟩
  by_cases hl : w.length = 5
  · rw [decodeC0, if_pos hl, if_pos (by omega)]
  · rw [decodeC0, if_neg hl, if_neg (not_lt.2 h), if_neg (by omega)]

/-- R83, R84: a whole `CW` image is read when its payload has 4 bytes and refused otherwise. -/
theorem decodeCW_whole {w : List Byte} (h : 5 ≤ w.length) :
    ∃ i, decodeCW w = if w.length - 5 = 4 then .ok i
      else .error (.descriptor (.payloadSize (w.length - 5))) := by
  refine ⟨.writereg (broadcastOf (byteAt w 0)) (byteAt w 2) (byteAt w 3) (be32At w 4), ?_⟩
  by_cases hl : w.length = 9
  · rw [decodeCW, if_pos hl, if_pos (by omega)]
  · rw [decodeCW, if_neg hl, if_neg (not_lt.2 h), if_neg (by omega)]

theorem decodeAs_control {c : Command} (hc : c ≠ .sendjob) {w : List Byte} (h : 5 ≤ w.length) :
    ∃ i, decodeAs c w = if w.length - 5 = payloadLen c then .ok i
      else .error (.descriptor (.payloadSize (w.length - 5))) := by
  cases c with
  | setaddr | readreg | inactive => exact decodeC0_whole _ h
  | writereg => exact decodeCW_whole h
  | sendjob => exact absurd rfl hc

/-- R84, R91: the command of each control opcode byte, and the payload size of its format. -/
theorem controlByte_spells : ∀ op ∈ [0x40, 0x50, 0x42, 0x52, 0x43, 0x53, 0x41, (0x51 : Byte)],
    op ≠ 0x31 ∧ ∃ c ∈ [Command.setaddr, .writereg, .readreg, .inactive], commandOf op = some c ∧
      payloadLen c = if op = 0x41 ∨ op = 0x51 then 4 else 0 := by
  decide

/-- Settles O52: the format of the command that the opcode byte spells decides by the payload. -/
theorem payloadSizeDecides : Obligations.PayloadSizeDecides := by
  intro op t hop ht
  obtain ⟨h31, c, hmem, hcmd, hsize⟩ := controlByte_spells op hop
  have hc : c ≠ .sendjob := by
    rintro rfl
    exact absurd hmem (by decide)
  obtain ⟨i, hi⟩ := decodeAs_control hc (w := op :: t) (Nat.succ_le_succ ht)
  rw [hsize, List.length_cons, Nat.add_sub_add_right t.length 1 4] at hi
  rw [decode, Laws.decodeCommand_of op t c h31 hcmd, hi]
  refine ⟨⟨fun ⟨_, hok⟩ => ?_, fun hlen => ⟨i, if_pos hlen⟩⟩, fun hlen => if_neg hlen⟩
  by_contra hlen
  rw [if_neg hlen] at hok
  exact nomatch hok

/-! ### Refused images (R206) -/

theorem step_of_decode_error {s : State} {r : Request} {rest : List Request} {why : Reject}
    (hp : s.pending = r :: rest) (hd : decode r = .error why) :
    step s = takeReject why (setPending rest s) := by
  rcases step_cases s with ⟨hp', _⟩ | ⟨r', rest', i, hp', hd', _⟩ | ⟨r', rest', why', hp', hd', hs⟩
  · exact absurd (hp.symm.trans hp') (List.cons_ne_nil r rest)
  · obtain ⟨rfl, rfl⟩ := List.cons.inj (hp.symm.trans hp')
    exact nomatch hd.symm.trans hd'
  · obtain ⟨rfl, rfl⟩ := List.cons.inj (hp.symm.trans hp')
    obtain rfl := Except.error.inj (hd.symm.trans hd')
    exact hs

/-- R206, R207: in an idle block, where `raise` leaves `MODE`, a refusal writes these elements. -/
theorem refuseDescriptor_of_idle (why : DescriptorReason) {s : State} (hm : s.mode = .idle) :
    refuseDescriptor why s =
      { s with res := { s.res with valid := false }, status := 6, info := .reason why,
               returned := .raised (.descriptorError why), everFailed := true } := by
  simp [refuseDescriptor, raise, clearValid, OpOutcome.code, OpOutcome.info, hm]

/-- Settles O51: an idle block answers the image by `refuseDescriptor`, with the request taken. -/
theorem refusedFormsRaiseDescriptorError : Obligations.RefusedFormsRaiseDescriptorError := by
  intro s w rest why hm hp hd
  rw [step_of_decode_error hp hd, takeReject, whenIdle_idle _ (s := setPending rest s) hm]
  exact congrArg _ (refuseDescriptor_of_idle why (s := setPending rest s) hm)

/-! ### Response frames (R82, R86) -/

theorem wireIn_eq (pre : Bool) (body : List Byte) :
    wireIn pre body = (if pre then [0xAA, 0x55] else []) ++ body := by
  cases pre <;> rfl

/-- Settles O38: `RESP` is the arrival of its frame, whatever `MODE` is. -/
theorem responseArrives : Obligations.ResponseArrives := by
  intro v c g f k s
  simp only [exec_arrival, updateOf, wireIn_eq]
  rfl

end Sys2Proof.Proofs
end

section
/-!
PROOFS. The checksums (R111 to R118). Both one-bit steps are additive for XOR, so a register and an error
pattern can be followed apart from a message.
-/

namespace Sys2Proof.Proofs

open Machine

/-! ### Additive one-bit steps -/

/-- R113(a) for one step: XOR of registers and of bits passes through it. -/
def AdditiveStep {n : Nat} (step : BitVec n → Bool → BitVec n) : Prop :=
  ∀ (r s : BitVec n) (a b : Bool), step (r ^^^ s) (a ^^ b) = step r a ^^^ step s b

/-- Two reductions by `poly` cancel. -/
theorem reduce_xor {n : Nat} (poly x y : BitVec n) (c d : Bool) :
    (if c ^^ d then (x ^^^ y) ^^^ poly else x ^^^ y)
      = (if c then x ^^^ poly else x) ^^^ (if d then y ^^^ poly else y) := by
  have hleft : (x ^^^ y) ^^^ poly = (x ^^^ poly) ^^^ y := by ac_rfl
  have hboth : x ^^^ y = (x ^^^ poly) ^^^ (y ^^^ poly) := by
    rw [← BitVec.xor_assoc, ← hleft, BitVec.xor_assoc, BitVec.xor_self, BitVec.xor_zero]
  cases c <;> cases d
  · rfl
  · exact BitVec.xor_assoc ..
  · exact hleft
  · exact hboth

theorem shiftStep_additive {n : Nat} (poly : BitVec n) (top : Nat) :
    AdditiveStep fun r b => if r.getLsbD top ^^ b then (r <<< 1) ^^^ poly else r <<< 1 := by
  intro r s a b
  have htop : ((r ^^^ s).getLsbD top ^^ (a ^^ b))
      = ((r.getLsbD top ^^ a) ^^ (s.getLsbD top ^^ b)) := by
    rw [BitVec.getLsbD_xor, Bool.xor_assoc, Bool.xor_left_comm (s.getLsbD top), ← Bool.xor_assoc]
  simp only [htop, BitVec.shiftLeft_xor_distrib, reduce_xor]

theorem zipWith_xor_false (q : List Bool) :
    List.zipWith xor (List.replicate q.length false) q = q := by
  induction q with
  | nil => rfl
  | cons b q ih => exact congrArg₂ List.cons (Bool.false_xor b) ih

section
variable {n : Nat} {step : BitVec n → Bool → BitVec n} (h : AdditiveStep step)
include h

theorem AdditiveStep.foldl_xor {p q : List Bool} (r s : BitVec n) (hlen : p.length = q.length) :
    (List.zipWith xor p q).foldl step (r ^^^ s) = p.foldl step r ^^^ q.foldl step s := by
  induction p generalizing q r s with
  | nil => obtain rfl := List.length_eq_zero_iff.1 hlen.symm; rfl
  | cons a p ih =>
    obtain ⟨b, q, rfl⟩ := List.exists_cons_of_length_eq_add_one hlen.symm
    rw [List.zipWith_cons_cons, List.foldl_cons, h, ih _ _ (Nat.succ.inj hlen)]
    rfl

/-- Additivity reduces "the word `d` stands for the bits `q`" to the zero register. -/
theorem AdditiveStep.foldl_eq_foldl_zeros {q : List Bool} {d : BitVec n}
    (hd : q.foldl step 0 = (List.replicate q.length false).foldl step d) (r : BitVec n) :
    q.foldl step r = (List.replicate q.length false).foldl step (r ^^^ d) := by
  calc q.foldl step r
    _ = (List.replicate q.length false).foldl step r ^^^ q.foldl step 0 := by
      rw [← h.foldl_xor r 0 List.length_replicate, zipWith_xor_false]
      exact congrArg (q.foldl step ·) BitVec.xor_zero.symm
    _ = (List.replicate q.length false).foldl step (r ^^^ d) := by
      rw [hd, ← h.foldl_xor r d rfl, List.zipWith_replicate, min_self, Bool.xor_false]

end

/-! ### The CRC-5 over bit sequences -/

theorem step5_additive : AdditiveStep step5 := shiftStep_additive 0x05 4

/-- Settles O10: the mask keeps all five bits; the bit equations and the example are finite. -/
theorem crc5StepByBits : Obligations.Crc5StepByBits := by
  refine ⟨fun r b => ⟨?_, ?_⟩, fun r b q => ⟨rfl, rfl⟩, by decide⟩
  · rw [show (0x1F : BitVec 5) = BitVec.allOnes 5 from rfl, BitVec.and_allOnes]
    rfl
  · revert r b
    decide

/-- Settles O12: additivity of the step, along both sequences. -/
theorem crc5Linear : Obligations.Crc5Linear :=
  fun _ _ r1 r2 hlen => step5_additive.foldl_xor r1 r2 hlen

theorem crc5Bits_append (r : BitVec 5) (p q : List Bool) :
    crc5Bits r (p ++ q) = crc5Bits (crc5Bits r p) q := List.foldl_append

theorem step5_inj {r s : BitVec 5} {b : Bool} : step5 r b = step5 s b ↔ r = s := by
  have hzero : ∀ x : BitVec 5, step5 x false = 0 ↔ x = 0 := by decide
  rw [← BitVec.xor_eq_zero_iff, ← step5_additive, Bool.xor_self]
  exact (hzero _).trans BitVec.xor_eq_zero_iff

/-- Reading bits loses nothing of the register. -/
theorem crc5Bits_inj {r s : BitVec 5} (q : List Bool) : crc5Bits r q = crc5Bits s q ↔ r = s := by
  induction q generalizing r s with
  | nil => rfl
  | cons b q ih => exact ih.trans step5_inj

theorem crc5Bits_zero_zeros (n : Nat) : crc5Bits 0 (List.replicate n false) = 0 := by
  induction n with
  | zero => rfl
  | succ n ih => exact ih

theorem crc5Bits_zeros_eq_zero {r : BitVec 5} (n : Nat) :
    crc5Bits r (List.replicate n false) = 0 ↔ r = 0 := by
  rw [← crc5Bits_inj (r := r) (List.replicate n false), crc5Bits_zero_zeros]

/-- R113(b): five bits are absorbed into the register, wherever they come. -/
theorem crc5Bits_bitsOf5 (r c : BitVec 5) :
    crc5Bits r (bitsOf5 c) = crc5Bits (r ^^^ c) (List.replicate 5 false) := by
  have hzero : ∀ c : BitVec 5, crc5Bits 0 (bitsOf5 c) = crc5Bits c (List.replicate 5 false) := by
    decide
  exact step5_additive.foldl_eq_foldl_zeros (hzero c) r

theorem crc5Bits_bitsOf5_eq_zero {r c : BitVec 5} : crc5Bits r (bitsOf5 c) = 0 ↔ r = c := by
  rw [crc5Bits_bitsOf5, crc5Bits_zeros_eq_zero]
  exact BitVec.xor_eq_zero_iff

/-- Settles O13: reading zero bits is injective on the finitely many registers. -/
theorem crc5AbsorbsFiveBits : Obligations.Crc5AbsorbsFiveBits :=
  ⟨crc5Bits_bitsOf5, Finite.injective_iff_bijective.1 fun _ _ => (crc5Bits_inj _).1,
    crc5Bits_zero_zeros 5⟩

/-- Settles O14: the trailer meets the register that the message leaves. -/
theorem crc5ResidueUnique : Obligations.Crc5ResidueUnique := by
  intro m c
  rw [crc5Bits_append, crc5Bits_bitsOf5_eq_zero, eq_comm]

/-! ### Byte-wide trailers (R113(d)) -/

theorem crc5_append (s t : List Byte) : crc5 (s ++ t) = crc5Bits (crc5 s) (bitsOf t) := by
  rw [crc5, bitsOf, List.flatMap_append]
  exact crc5Bits_append ..

theorem bitsOf_singleton (x : Byte) : bitsOf [x] = bitsOfByte x := List.append_nil _

theorem bitsOfByte_zext8 (c : BitVec 5) :
    bitsOfByte (zext8 c) = [false, false, false] ++ bitsOf5 c := by
  simp [bitsOfByte, zext8, bitsOf5]

/-- A register `c` that reads `000` and then `c` is left at 0 only if `000` leaves `c` as it is. -/
theorem crc5Bits_zext_eq_zero {c : BitVec 5} :
    crc5Bits c ([false, false, false] ++ bitsOf5 c) = 0 ↔ c = 0 := by
  have hfixed : ∀ c : BitVec 5, crc5Bits c [false, false, false] = c ↔ c = 0 := by decide
  rw [crc5Bits_append, crc5Bits_bitsOf5_eq_zero, hfixed]

theorem bitsOf5_xor (c d : BitVec 5) :
    bitsOf5 (c ^^^ d) = List.zipWith xor (bitsOf5 c) (bitsOf5 d) := by
  simp [bitsOf5]

theorem crc5Bits_zext_xor (c d : BitVec 5) :
    crc5Bits (c ^^^ d) ([false, false, false] ++ bitsOf5 (c ^^^ d))
      = crc5Bits c ([false, false, false] ++ bitsOf5 c)
        ^^^ crc5Bits d ([false, false, false] ++ bitsOf5 d) := by
  rw [bitsOf5_xor]
  exact crc5Linear ([false, false, false] ++ bitsOf5 c) ([false, false, false] ++ bitsOf5 d) c d rfl

/-- Settles O15: the residue is additive in the trailer and 0 only at 0, so it takes no value twice. -/
theorem crc5ByteTrailerResidue : Obligations.Crc5ByteTrailerResidue := by
  have hresidue (s : List Byte) : crc5 (s ++ [zext8 (crc5 s)])
      = crc5Bits (crc5 s) ([false, false, false] ++ bitsOf5 (crc5 s)) := by
    rw [crc5_append, bitsOf_singleton, bitsOfByte_zext8]
  refine ⟨hresidue, fun s => hresidue s ▸ crc5Bits_zext_eq_zero,
    Finite.injective_iff_bijective.1 fun c d hcd => ?_⟩
  refine BitVec.xor_eq_zero_iff.1 (crc5Bits_zext_eq_zero.1 ?_)
  rw [crc5Bits_zext_xor]
  exact BitVec.xor_eq_zero_iff.2 hcd

/-! ### Error patterns (R113(e)) -/

theorem crc5Bits_error {m e : List Bool} (r : BitVec 5) (hlen : m.length = e.length) :
    crc5Bits r (List.zipWith xor m e) = crc5Bits r m ↔ crc5Bits 0 e = 0 := by
  have hlinear : crc5Bits r (List.zipWith xor m e) = crc5Bits r m ^^^ crc5Bits 0 e := by
    rw [← crc5Linear m e r 0 hlen]
    exact congrArg (crc5Bits · _) BitVec.xor_zero.symm
  rw [hlinear]
  conv_lhs => rhs; rw [← BitVec.xor_zero (x := crc5Bits r m)]
  exact BitVec.xor_right_inj _

theorem exists_bitsOf5 {q : List Bool} (h : q.length = 5) : ∃ c, bitsOf5 c = q := by
  match q, h with
  | [a, b, c, d, e], _ =>
    refine ⟨BitVec.ofBoolListBE [a, b, c, d, e], ?_⟩
    revert a b c d e
    decide

/-- A burst of at most five bits, padded to five, is a word that the zero register absorbs. -/
theorem crc5Bits_zero_burst {q : List Bool} (hlen : q.length ≤ 5) (h : crc5Bits 0 q = 0) :
    true ∉ q := by
  obtain ⟨c, hc⟩ := exists_bitsOf5 (q := q ++ List.replicate (5 - q.length) false) (by simp; omega)
  have hpad : crc5Bits 0 (bitsOf5 c) = 0 := by
    rw [hc, crc5Bits_append, h, crc5Bits_zero_zeros]
  obtain rfl := crc5Bits_bitsOf5_eq_zero.1 hpad
  intro hq
  have hmem : true ∈ bitsOf5 0 := hc ▸ List.mem_append_left _ hq
  exact absurd hmem (by decide)

theorem bitsOfByte_xor (x e : Byte) :
    bitsOfByte (x ^^^ e) = List.zipWith xor (bitsOfByte x) (bitsOfByte e) := by
  simp [bitsOfByte]

/-- Within one byte, from any register, exactly the seven patterns of the spec go undetected. -/
theorem crc5Bits_error_byte (r : BitVec 5) (x e : Byte) :
    crc5Bits r (bitsOfByte (x ^^^ e)) = crc5Bits r (bitsOfByte x) ↔ e = 0 ∨ e ∈ undetected := by
  have hzero : ∀ e : Byte, crc5Bits 0 (bitsOfByte e) = 0 ↔ e = 0 ∨ e ∈ undetected := by
    decide +kernel
  rw [bitsOfByte_xor]
  exact (crc5Bits_error (m := bitsOfByte x) (e := bitsOfByte e) r rfl).trans (hzero e)

theorem crc5_set {s : List Byte} {k : Nat} (h : k < s.length) (x : Byte) :
    crc5 (s.set k x)
      = crc5Bits (crc5Bits (crc5 (s.take k)) (bitsOfByte x)) (bitsOf (s.drop (k + 1))) := by
  rw [List.set_eq_take_append_cons_drop, if_pos h, crc5_append]
  exact crc5Bits_append ..

theorem set_byteAt_self {s : List Byte} {k : Nat} (h : k < s.length) : s.set k (byteAt s k) = s := by
  rw [byteAt, List.getD_eq_getElem _ _ h, List.set_getElem_self]

/-- Settles O16: what stands around a pattern neither hides it nor reveals it. -/
theorem crc5UndetectedPatterns : Obligations.Crc5UndetectedPatterns := by
  refine ⟨fun m e hlen => crc5Bits_error _ hlen, fun a z q hlen hq h => ?_, fun s k e hk => ?_⟩
  · rw [crc5Bits_append, crc5Bits_append, crc5Bits_zero_zeros, crc5Bits_zeros_eq_zero] at h
    exact crc5Bits_zero_burst hlen h hq
  · calc crc5 (s.set k (byteAt s k ^^^ e)) = crc5 s
      _ ↔ crc5 (s.set k (byteAt s k ^^^ e)) = crc5 (s.set k (byteAt s k)) := by
        rw [set_byteAt_self hk]
      _ ↔ e = 0 ∨ e ∈ undetected := by
        rw [crc5_set hk, crc5_set hk, crc5Bits_inj, crc5Bits_error_byte]

/-! ### The CRC-16 step and the byte-at-a-time forms (R115, R118) -/

theorem step16_additive : AdditiveStep step16 := shiftStep_additive 0x1021 15

/-- Settles O11: the mask keeps all 16 bits. -/
theorem crc16StepByShift : Obligations.Crc16StepByShift := by
  refine ⟨fun r b => ?_, by decide⟩
  rw [show (0xFFFF : BitVec 16) = BitVec.allOnes 16 from rfl, BitVec.and_allOnes]
  rfl

theorem step16_false (r : BitVec 16) : step16 r false = crc16Shift r := by
  rw [step16, Bool.xor_false, crc16Shift]

theorem foldl_step16_zeros (r : BitVec 16) :
    (List.replicate 8 false).foldl step16 r = Nat.repeat crc16Shift 8 r := by
  simp [List.replicate, step16_false, Nat.repeat]

theorem foldl_step16_bitsOfByte (r : BitVec 16) (x : Byte) :
    (bitsOfByte x).foldl step16 r = crc16Byte r x := by
  have hzero : ∀ x : Byte, (bitsOfByte x).foldl step16 0
      = (List.replicate 8 false).foldl step16 (x ++ (0 : Byte)) := by
    decide +kernel
  rw [step16_additive.foldl_eq_foldl_zeros (hzero x) r]
  exact foldl_step16_zeros _

theorem crc5Bits_bitsOfByte (r : BitVec 5) (x : Byte) :
    crc5Bits r (bitsOfByte x) = crc5Byte r x := by
  have hsplit : bitsOfByte x
      = bitsOf5 (x.extractLsb' 3 5) ++ [x.getLsbD 2, x.getLsbD 1, x.getLsbD 0] := by
    simp [bitsOfByte, bitsOf5]
  rw [hsplit, crc5Bits_append, crc5Bits_bitsOf5]
  rfl

/-- Settles O17: both registers read a message byte by byte. -/
theorem crcByteFormsAgree : Obligations.CrcByteFormsAgree := by
  refine ⟨fun p s hrefin => ?_, fun s => ?_⟩
  · have hbits : crc16ByteBits p = bitsOfByte := funext fun x => by simp [crc16ByteBits, hrefin]
    simp only [crc16Register, hbits, List.foldl_flatMap, foldl_step16_bitsOfByte]
  · rw [crc5, bitsOf, crc5Bits, List.foldl_flatMap]
    exact congrArg (fun f => s.foldl f 0x1F) (funext₂ crc5Bits_bitsOfByte)

/-! ### The operations `CRC5` and `CRC16` (R112, R116) -/

/-- An operation that `OK` ends, seen from an idle block, where `MODE` stays. -/
theorem finish_of_idle (v : Returned) {s : State} (hm : s.mode = .idle) :
    finish v s = { s with status := 0, info := .nothing, returned := v } := by
  rw [finish, ← hm]
  rfl

/-- Settles O34: an idle block accepts `CRC5`, and only the register is written before `OK`. -/
theorem crc5Operation : Obligations.Crc5Operation := by
  intro bytes s hm
  exact (whenIdle_idle (updateOf (.crc5 bytes)) hm).trans
    (congrArg _ (finish_of_idle (s := setCrc5 (crc5 bytes) s) _ hm))

/-- Settles O35: as O34, the register kept as it was before reflection and XOR. -/
theorem crc16Operation : Obligations.Crc16Operation := by
  intro bytes s hm
  exact (whenIdle_idle (updateOf (.crc16 bytes)) hm).trans
    (congrArg _ (finish_of_idle (s := setCrc16 (crc16Register Config.crc16 bytes) s) _ hm))

end Sys2Proof.Proofs
end

section
/-!
PROOFS. The control commands and `CFGPRE` (R130 to R136, R140): the shape of a control frame, and what a
control send leaves when the transport accepts its frame.
-/

namespace Sys2Proof.Proofs

open Machine

/-! ### The frame of a control command (R136) -/

theorem wireOut_inj {pre : Bool} {body body' : List Byte} :
    wireOut pre body = wireOut pre body' ↔ body = body' := by
  refine ⟨fun h => ?_, congrArg _⟩
  have hstrip : stripOut pre (wireOut pre body) = some body := stripOut_eq_some.2 rfl
  exact Option.some.inj (hstrip.symm.trans (stripOut_eq_some.2 h))

/-- R97, R136(c): the mask of the opcode rows takes the broadcast flag off. -/
theorem opByte_and_mask (b : Bool) :
    ∀ op ∈ [0x40, 0x41, 0x42, (0x43 : Byte)], opByte op b &&& 0xEF = op := by
  cases b <;> decide

theorem opByte_inj {op op' : Byte} {b b' : Bool} (hop : op ∈ [0x40, 0x41, 0x42, (0x43 : Byte)])
    (hop' : op' ∈ [0x40, 0x41, 0x42, (0x43 : Byte)]) (h : opByte op b = opByte op' b') :
    op = op' ∧ b = b' := by
  obtain ⟨-, -, hbit, -⟩ := opByte_bits b op hop
  obtain ⟨-, -, hbit', -⟩ := opByte_bits b' op' hop'
  constructor
  · rw [← opByte_and_mask b op hop, h, opByte_and_mask b' op' hop']
  · rw [← hbit, h, hbit']

/-- R136(d): each operand can be read off the body. -/
theorem encodeCtl_inj {op op' : Byte} {b b' : Bool} {chip chip' reg reg' : Byte}
    {payload payload' : List Byte} (hop : op ∈ [0x40, 0x41, 0x42, (0x43 : Byte)])
    (hop' : op' ∈ [0x40, 0x41, 0x42, (0x43 : Byte)])
    (h : encodeCtl op b chip reg payload = encodeCtl op' b' chip' reg' payload') :
    op = op' ∧ b = b' ∧ chip = chip' ∧ reg = reg' ∧ payload = payload' := by
  have hhead : ctlHead op b chip reg payload = ctlHead op' b' chip' reg' payload' :=
    List.append_inj_left' h rfl
  simp only [ctlHead, List.cons_append, List.nil_append, List.cons.injEq] at hhead
  obtain ⟨hbyte, -, hchip, hreg, hpayload⟩ := hhead
  obtain ⟨rfl, rfl⟩ := opByte_inj hop hop' hbyte
  exact ⟨rfl, rfl, hchip, hreg, hpayload⟩

theorem take_encodeCtl_head (op : Byte) (b : Bool) (chip reg : Byte) (payload : List Byte) :
    (encodeCtl op b chip reg payload).take ((encodeCtl op b chip reg payload).length - 1)
      = ctlHead op b chip reg payload := by
  simp [encodeCtl]

/-- R130: the last byte of a control body is the CRC-5 of the bytes before it. -/
theorem byteAt_encodeCtl_trailer (op : Byte) (b : Bool) (chip reg : Byte) (payload : List Byte) :
    byteAt (encodeCtl op b chip reg payload) ((encodeCtl op b chip reg payload).length - 1)
      = zext8 (crc5 (ctlHead op b chip reg payload)) := by
  rw [encodeCtl, List.length_append]
  exact byteAt_append_right _ _ 0

theorem zext8_eq_zero {c : BitVec 5} : zext8 c = 0 ↔ c = 0 := by
  revert c
  decide

/-- R113(d), R136(f): a whole control body has the residue of its byte-wide trailer. -/
theorem crc5_encodeCtl_eq_zero (op : Byte) (b : Bool) (chip reg : Byte) (payload : List Byte) :
    crc5 (encodeCtl op b chip reg payload) = 0 ↔ crc5 (ctlHead op b chip reg payload) = 0 := by
  obtain ⟨-, hzero, -⟩ := crc5ByteTrailerResidue
  exact hzero _

/-- Settles O8: the body is `ctlHead` and its trailer, so each clause is read off one of the two. -/
theorem controlFrameShape : Obligations.ControlFrameShape := by
  intro op b chip reg payload pre hop hlen body
  have hpayload : payload.length ≤ 4 := by rw [hlen]; split <;> decide
  have htrailer : byteAt body (body.length - 1) = zext8 (crc5 (ctlHead op b chip reg payload)) :=
    byteAt_encodeCtl_trailer ..
  obtain ⟨-, -, hbit, -⟩ := opByte_bits b op hop
  refine ⟨?_, encodeCtl_lengthByte op b chip reg hpayload, ⟨hbit, opByte_and_mask b op hop⟩,
    fun op' b' chip' reg' payload' hop' _ h => encodeCtl_inj hop hop' (wireOut_inj.1 h), ?_, ?_⟩
  · rw [wireOut_length, encodeCtl_length]
    cases pre <;> rfl
  · rw [htrailer, take_encodeCtl_head]
  · rw [htrailer, zext8_eq_zero, crc5_encodeCtl_eq_zero]

/-! ### A send that ends OK (R57, R131) -/

theorem wireOut_eq (pre : Bool) (body : List Byte) :
    wireOut pre body = (if pre then [0x55, 0xAA] else []) ++ body := by
  cases pre <;> rfl

/-- R57, R131, R150: a body that fits `TXBUF` behind its preamble, with the checksum and descriptor
latched, is sent whole when the next write accepts its frame. -/
theorem sentOk_transmit {s : State} {body : List Byte} (c5 : BitVec 5) (c16 : BitVec 16) (cmd : Cmd)
    (job : Job) (fits : body.length ≤ 150) (hacc : s.AcceptsFrame (wireOut s.cfgPre body).length) :
    SentOk s (transmit body { clearValid s with crc5 := c5, crc16 := c16, cmd := cmd, job := job })
      (wireOut s.cfgPre body) := by
  obtain ⟨count, hok, hle⟩ := hacc
  have hframe := wireOut_fits s.cfgPre fits
  have hcount : (BitVec.ofNat 8 (wireOut s.cfgPre body).length).toNat
      = (wireOut s.cfgPre body).length :=
    (BitVec.toNat_ofNat _ _).trans (Nat.mod_eq_of_lt (hframe.trans_lt (by decide)))
  rw [transmit_accepted (s := { clearValid s with crc5 := c5, crc16 := c16, cmd := cmd, job := job })
    hok hle]
  exact
    { bus := rfl
      txbuf := memRead_storeTx (wireOut s.cfgPre body) s hframe
      txrest := fun a ha => Memory.get?_write_after _ _ ((Nat.zero_add _).trans_le ha)
      txlen := hcount
      idx := hcount
      res := rfl
      status := rfl
      info := rfl
      returned := rfl
      mode := rfl
      cfgPre := rfl
      rxbuf := rfl
      rxcnt := rfl
      pending := rfl
      everFailed := rfl }

/-! ### The control commands (R132 to R135) -/

/-- R130, R131: what the four control commands share, for the body bytes `head` before the trailer. -/
theorem control_sends {i : Instr} {op : Byte} {b : Bool} {chip reg : Byte} {val : Option Word}
    {s : State} {head : List Byte} (hexec : exec i s = whenIdle (sendControl op b chip reg val) s)
    (hhead : ctlHead op b chip reg ((val.map be32).getD []) = head) (hm : s.mode = .idle)
    (hacc : s.AcceptsFrame (head.length + 1 + if s.cfgPre then 2 else 0)) :
    ∃ t, exec i s = .next t ∧
      SentOk s t ((if s.cfgPre then [0x55, 0xAA] else []) ++ head ++ [zext8 (crc5 head)]) ∧
      t.cmd = { op := op, b := b, chip := chip, reg := reg, val := val.getD s.cmd.val } ∧
      t.crc5 = crc5 head ∧ t.crc16 = s.crc16 ∧ t.job = s.job := by
  subst hhead
  refine ⟨sendControl op b chip reg val s, hexec.trans (whenIdle_idle _ hm), ?_⟩
  rw [sendControl_eq, List.append_assoc, ← wireOut_eq, ← encodeCtl]
  have fits : (encodeCtl op b chip reg ((val.map be32).getD [])).length ≤ 150 := by
    rw [encodeCtl_length]
    cases val <;> simp
  refine ⟨sentOk_transmit _ _ _ _ fits ?_, ?_⟩
  · rwa [wireOut_length, encodeCtl, List.length_append]
  · simp [transmit_frame]

/-- Settles O19: the five body bytes of opcode 0x40, or 0x50 when broadcast. -/
theorem setaddrSends : Obligations.SetaddrSends :=
  fun b _ _ _ hm hacc => control_sends (val := none) rfl (by cases b <;> rfl) hm hacc

/-- Settles O20: the nine body bytes of opcode 0x41, or 0x51 when broadcast. -/
theorem writeregSends : Obligations.WriteregSends :=
  fun b _ _ v _ hm hacc => control_sends (val := some v) rfl (by cases b <;> rfl) hm hacc

/-- Settles O21: the five body bytes of opcode 0x42, or 0x52 when broadcast. -/
theorem readregSends : Obligations.ReadregSends :=
  fun b _ _ _ hm hacc => control_sends (val := none) rfl (by cases b <;> rfl) hm hacc

/-- Settles O22: the five body bytes of opcode 0x43, or 0x53 when broadcast. -/
theorem inactiveSends : Obligations.InactiveSends :=
  fun b _ _ _ hm hacc => control_sends (val := none) rfl (by cases b <;> rfl) hm hacc

/-- Settles O36: an idle block accepts `CFGPRE`, and only `CFG.PRE` is written before `OK`. -/
theorem cfgpreOperation : Obligations.CfgpreOperation := by
  intro p s hm
  exact (whenIdle_idle (updateOf (.cfgpre p)) hm).trans
    (congrArg _ (finish_of_idle (s := setPre p s) _ hm))

end Sys2Proof.Proofs
end

section
/-!
PROOFS. The job command (R150 to R153): the bytes its checksum covers, what it latches, and how a
count inside and outside 1 to 4 ends it.
-/

namespace Sys2Proof.Proofs

open Machine

/-- R85, R88: the bytes of a job before its trailer, the length byte the length of the body. -/
theorem jobHead_bytes (j : Byte) (n d t k : Word) (ms : List Midstate) :
    jobHead j n d t k ms =
      [0x21, BitVec.ofNat 8 (22 + 32 * ms.length), j, BitVec.ofNat 8 ms.length]
        ++ le32 n ++ le32 d ++ le32 t ++ le32 k ++ ms.flatMap Vector.toList := by
  have hlen : lenByte (jobPayload n d t k ms).length 2 = BitVec.ofNat 8 (22 + 32 * ms.length) := by
    rw [lenByte, jobPayload_length,
      show 4 + (16 + 32 * ms.length) + 2 = 22 + 32 * ms.length by omega]
  rw [jobHead, hlen]
  simp [jobPayload, midstateBytes]

/-- R27: the operands' midstates stand in the first places of `JOB.MID`, the old ones behind. -/
theorem latchMids_getElem (ms : List Midstate) (old : Vector Midstate 4) (q : Fin 4) :
    (latchMids ms old)[q] = if h : q.val < ms.length then ms[q.val] else old[q] := by
  by_cases h : q.val < ms.length <;> simp [latchMids, h]

/-- R150: an admitted job is transmitted with its descriptor and its checksum latched. -/
theorem exec_sendjob_admitted (j : Byte) (n d t k : Word) {ms : List Midstate} {s : State}
    (hm : s.mode = .idle) (hmin : 1 ≤ ms.length) (hmax : ms.length ≤ 4) :
    exec (.sendjob j n d t k ms) s = .next (transmit (encodeJob Config.crc16 j n d t k ms)
      (setCrc16 (crc16Register Config.crc16 (jobHead j n d t k ms))
        (latchJob j n d t k ms (clearValid s)))) := by
  rcases sendJob_cases j n d t k ms s with ⟨hout, -⟩ | ⟨-, he⟩
  · omega
  · exact (whenIdle_idle (sendJob j n d t k ms) hm).trans (congrArg _ he)

/-- Settles O23: the frame is that of any send whose write accepts it, and the transmission leaves
what was latched before it. -/
theorem sendjobSends : Obligations.SendjobSends := by
  intro j n d t k ms s hm hmin hmax hacc head frame
  have hhead : jobHead j n d t k ms = head := jobHead_bytes j n d t k ms
  have hbody := encodeJob_length Config.crc16 j n d t k ms
  have hframe : frame = wireOut s.cfgPre (encodeJob Config.crc16 j n d t k ms) := by
    rw [wireOut_eq, encodeJob, hhead, ← List.append_assoc]
    rfl
  refine ⟨_, exec_sendjob_admitted j n d t k hm hmin hmax, ?_, ?_⟩
  · rw [hframe]
    exact sentOk_transmit _ _ _ _ (by omega) (by rwa [wireOut_length, hbody])
  · rw [hhead]
    have hcount : ms.length % 256 = ms.length := Nat.mod_eq_of_lt (by omega)
    simpa [transmit_frame, hcount] using latchMids_getElem ms s.job.mid

/-- Settles O26: the count is refused before anything is latched or sent. -/
theorem jobCountOutsideRangeRefused : Obligations.JobCountOutsideRangeRefused := by
  intro j n d t k ms s hm hout
  rcases sendJob_cases j n d t k ms s with ⟨-, he⟩ | ⟨hcount, -⟩
  · exact (whenIdle_idle (sendJob j n d t k ms) hm).trans
      (congrArg _ (he.trans (refuseDescriptor_of_idle _ hm)))
  · omega

end Sys2Proof.Proofs
end

section
/-!
PROOFS. Receiving a response (R86, R160 to R167): the checksum that its rule asks for, the checks in
their order, the delivery of a response that passes, and one corrupted byte.
-/

namespace Sys2Proof.Proofs

open Machine

/-! ### The checksum of a response (R164 to R166) -/

theorem bitsOfByte_append (f : BitVec 3) (k : BitVec 5) :
    bitsOfByte (f ++ k) = bitsOf3 f ++ bitsOf5 k := by
  simp only [bitsOfByte, bitsOf3, bitsOf5, BitVec.getLsbD_append]
  rfl

/-- R86, R166: a response is 51 bits and the five bits of its checksum. -/
theorem bitsOf_respBody (v : Word) (c g : Byte) (f : BitVec 3) (k : BitVec 5) :
    bitsOf (respBody v c g f k) = bitsOf (be32 v ++ [c, g]) ++ bitsOf3 f ++ bitsOf5 k := by
  have hsplit : respBody v c g f k = (be32 v ++ [c, g]) ++ [f ++ k] := rfl
  rw [hsplit, bitsOf, List.flatMap_append, ← bitsOf, ← bitsOf, bitsOf_singleton, bitsOfByte_append,
    ← List.append_assoc]

/-- Settles O18: five last bits leave residue 0 exactly when they are the CRC-5 before them (O14). -/
theorem responseChecksumUnique : Obligations.ResponseChecksumUnique := by
  intro v c g f k
  rw [crc5, bitsOf_respBody]
  exact crc5ResidueUnique _ k

/-! ### The order of the checks (R205) -/

/-- R160: the frame of a `RECV`, however it ends. -/
theorem recvKeeps_receive (s : State) : RecvKeeps s (receive s) := by
  obtain ⟨hpre, hcrc16, hcmd, hjob, htxbuf, htxlen, hbus, hpending⟩ := receive_frame s
  exact
    { cfgPre := hpre
      crc16 := hcrc16
      cmd := hcmd
      job := hjob
      txbuf := htxbuf
      txlen := htxlen
      pending := hpending
      outbound := by rw [hbus, busRead_outbound]
      writeScript := by rw [hbus, busRead_writeScript] }

/-- Settles O29: a `RECV` whose read returns ends in the outcome expected of it, or in a result. -/
theorem recvChecksInOrder : Obligations.RecvChecksInOrder := by
  intro s hm hret
  refine ⟨receive s, whenIdle_idle receive hm, recvKeeps_receive s, ?_⟩
  rw [← respLen]
  rcases receive_outcome s with ⟨o, x, ho, he, hres⟩ | ⟨ho, v, c, g, x, he⟩ | ⟨taken, hnever⟩
  · rw [ho, he]
    exact ⟨endedIn_raise o (hres ▸ rfl), hres⟩
  · rw [ho, he]
    exact ⟨rfl, rfl, rfl, rfl, rfl⟩
  · exact absurd hnever (hret taken)

/-! ### A response that the read gives whole (R160, R161) -/

/-- R58: a read of `n` bytes gives the `n` bytes that head the stream, and leaves those behind. -/
theorem busRead_whole {b : Bus} {w rest : List Byte} {count : Nat}
    (hin : b.inbound ++ b.nextRead.arriving = w ++ rest) (hres : b.nextRead.result = .data count)
    (hle : w.length ≤ count) :
    busRead w.length b = (.ok w, { b.popRead with inbound := rest }) := by
  simp [busRead, hin, hres, readOutcome, bytesTaken, Nat.min_eq_right hle]

/-- R162, R163: a body of 7 bytes behind its preamble passes both framing checks. -/
theorem checkResponse_wireIn {s : State} {body : List Byte} (h : body.length = 7) :
    checkResponse (wireIn s.cfgPre body) s = checkBody (respLen s.cfgPre) body s := by
  rw [checkResponse, if_neg (not_not_intro (wireIn_respLen _ _ h)), checkPreamble]
  cases s.cfgPre <;> rfl

section
variable {s : State} {body rest : List Byte} {count : Nat}
  (hlen : body.length = 7)
  (hin : s.bus.inbound ++ s.bus.nextRead.arriving = wireIn s.cfgPre body ++ rest)
  (hres : s.bus.nextRead.result = .data count) (hle : respLen s.cfgPre ≤ count)
include hlen hin hres hle

/-- R82, R160: a `RECV` that is given enough takes the response that heads the stream. -/
theorem busRead_response : busRead (respLen s.cfgPre) s.bus
    = (.ok (wireIn s.cfgPre body), { s.bus.popRead with inbound := rest }) := by
  have hframe := wireIn_respLen s.cfgPre body hlen
  rw [← hframe] at hle ⊢
  exact busRead_whole hin hres hle

/-- R160, R161: with a response that passes, `RECV` stores the frame and ends in its fields. -/
theorem receive_delivers (hc : crc5 body = 0) :
    receive s = finish (.response (be32At body 0) (byteAt body 4) (byteAt body 5))
      (latchRes (be32At body 0) (byteAt body 4) (byteAt body 5)
        (setIdx (respLen s.cfgPre) (setCrc5 0 (storeRx (wireIn s.cfgPre body)
          (setBus { s.bus.popRead with inbound := rest } (setIdx 0 (clearValid s))))))) := by
  rw [receive_eq, busRead_response hlen hin hres hle]
  refine (checkResponse_wireIn (s := storeRx _ (setBus _ (setIdx 0 (clearValid s)))) hlen).trans ?_
  rw [checkBody, if_neg (not_not_intro hc), hc]
  rfl

end

/-- R29: `RXBUF` holds the whole frame that was stored. -/
theorem memRead_storeRx_whole {w : List Byte} (s : State) (h : w.length ≤ rxSize) :
    memRead .rx 0 w.length (storeRx w s) = .next w := by
  rw [memRead_storeRx w s 0 w.length (Nat.zero_add _).le h, List.drop_zero, List.take_length]

theorem respLen_eq (pre : Bool) : respLen pre = 7 + if pre then 2 else 0 := by cases pre <;> rfl

/-- Settles O28: each clause is read off the state that `receive_delivers` writes out. -/
theorem recvDeliversResponse : Obligations.RecvDeliversResponse := by
  intro s body rest count hm hlen hc hin hres hle
  rw [← wireIn_eq] at hin ⊢
  rw [← respLen_eq] at hle ⊢
  have hframe := wireIn_respLen s.cfgPre body hlen
  have hfits : (wireIn s.cfgPre body).length ≤ rxSize := hframe.trans_le (respLen_le _)
  refine ⟨receive s, whenIdle_idle receive hm, recvKeeps_receive s, ?_⟩
  rw [receive_delivers hlen hin hres hle hc]
  rw [← hframe]
  refine ⟨rfl, rfl, rfl, rfl, rfl, rfl, rfl, rfl, ?_, ?_, fun a ha => ?_⟩
  · exact storeRx_rxcnt_toNat s hfits
  · simpa [memRead] using memRead_storeRx_whole s hfits
  · exact Memory.get?_write_after _ _ ((Nat.zero_add _).trans_le ha)

/-! ### A response sent by the rule, and one corrupted byte (R167) -/

/-- Settles O31: the frame that arrives passes by O18, so O28 delivers its fields. -/
theorem responseRoundTrip : Obligations.ResponseRoundTrip := by
  intro v c g f s count hm hempty hres hle
  generalize hk : respChecksum v c g f = k
  have hc : crc5 (respBody v c g f k) = 0 := (responseChecksumUnique v c g f k).2 hk.symm
  have hvalue : be32At (respBody v c g f k) 0 = v := be32At_be32 v _
  have hin : (updateOf (.resp v c g f k) s).bus.inbound = wireIn s.cfgPre (respBody v c g f k) := by
    simp [updateOf, hempty]
  obtain ⟨u, hu, -, hlatch, hret, hstatus, -, -, -, hrest, -⟩ :=
    recvDeliversResponse (updateOf (.resp v c g f k) s) (respBody v c g f k)
      s.bus.nextRead.arriving count hm rfl hc (by rw [hin, wireIn_eq]; rfl) hres
      (by split <;> omega)
  rw [hvalue] at hlatch hret
  refine ⟨_, u, exec_arrival .., hu, hret, hstatus, ?_, hrest⟩
  rw [readRes, hlatch]
  rfl

/-- Settles O32: a corrupted body passes exactly when the pattern is undetected (O16), and by O29
the checksum decides the outcome. -/
theorem recvOnOneCorruptedByte : Obligations.RecvOnOneCorruptedByte := by
  intro s body rest k count e hm hlen hc hk he hin hres hle
  have hbad : (body.set k (byteAt body k ^^^ e)).length = 7 := List.length_set.trans hlen
  have hpass : crc5 (body.set k (byteAt body k ^^^ e)) = 0 ↔ e ∈ undetected := by
    obtain ⟨-, -, hpattern⟩ := crc5UndetectedPatterns
    rw [← hc, hpattern body k e (hlen ▸ hk), or_iff_right he]
  generalize body.set k (byteAt body k ^^^ e) = bad at hin hbad hpass
  have hread := busRead_response (rest := rest ++ s.bus.nextRead.arriving) hbad
    (by rw [hin, List.append_assoc]) hres ((respLen_le _).trans hle)
  obtain ⟨t, ht, -, hend⟩ := recvChecksInOrder s hm (by simp [hres])
  rw [← respLen, hread, expectedOutcome_wireIn (wireIn_respLen _ _ hbad)] at hend
  refine ⟨t, ht, ?_⟩
  by_cases hu : e ∈ undetected
  · rw [if_neg (not_not_intro (hpass.2 hu))] at hend
    obtain ⟨hstatus, -, -, hvalid, -⟩ := hend
    rw [if_pos hu]
    exact ⟨hstatus, hvalid⟩
  · rw [if_pos (mt hpass.1 hu)] at hend
    obtain ⟨hended, -⟩ := hend
    rwa [if_neg hu]

end Sys2Proof.Proofs
end

section
/-!
PROOFS. The controller's sequences (R181, R183, R188): the loop that assigns the addresses, the
frequency of a PLL, and one turn of discovery.
-/

namespace Sys2Proof.Proofs

open Machine

/-! ### Address assignment (R183) -/

section
variable (voc : Vocabulary) (increment : Nat)

/-- R183: the address of the chip at index `k`. -/
def assignedAddress (k : Nat) : Byte := BitVec.ofNat 8 (k * increment)

/-- R183: the `SETADDR` of the chip at index `k`. -/
def setaddrLine (k : Nat) : HostLine :=
  .op (.setaddr false (assignedAddress increment k) voc.setaddrReg)

/-- R183: the lines of the `m` chips from index `k` on. -/
def assignLines (k m : Nat) : List HostLine :=
  (List.range' k m).flatMap fun j => [setaddrLine voc increment j, .delay voc.times.tSetaddr]

/-- R183: the chips once the `m` of them from index `k` on have their addresses. -/
def assignedChips (k m : Nat) (chips : List Chip) : List Chip :=
  chips.mapIdx fun j chip =>
    if k ≤ j ∧ j < k + m then readdress voc (assignedAddress increment j) chip else chip

/-- R183: what the loop over `n` chips from index `k` on makes of `c`: `m` turns in full, then the
lines `failed` of a turn that ended in an error. -/
structure LoopResult (n k : Nat) (c : Controller) (m : Nat) (failed : List HostLine)
    (r : Except ControllerError Unit × Controller) : Prop where
  turns : m ≤ n
  chips : r.2.chain.chips = assignedChips voc increment k m c.chain.chips
  done  : r.2.done = c.done ++ assignLines voc increment k m ++ failed
  ok    : r.1 = .ok () → m = n ∧ failed = []
  error : ∀ e, r.1 = .error e →
    m < n ∧ (failed = [] ∨ failed = [setaddrLine voc increment (k + m)])

theorem assignLines_succ (k m : Nat) : assignLines voc increment k (m + 1)
    = [setaddrLine voc increment k, .delay voc.times.tSetaddr]
      ++ assignLines voc increment (k + 1) m := by
  rw [assignLines, List.range'_succ, List.flatMap_cons, assignLines]

theorem assignedChips_zero (k : Nat) (chips : List Chip) :
    assignedChips voc increment k 0 chips = chips := by
  refine List.ext_getElem? fun j => ?_
  have hnone : ¬ (k ≤ j ∧ j < k + 0) := by omega
  simp only [assignedChips, List.getElem?_mapIdx, if_neg hnone, Option.map_id']

/-- The first chip's turn, then the others'. -/
theorem assignedChips_succ (k m : Nat) (chips : List Chip) :
    assignedChips voc increment k (m + 1) chips
      = assignedChips voc increment (k + 1) m
          (chips.modify k (readdress voc (assignedAddress increment k))) := by
  refine List.ext_getElem? fun j => ?_
  simp only [assignedChips, List.getElem?_mapIdx, List.getElem?_modify]
  by_cases hj : k = j
  · subst hj
    simp [Function.comp_def]
  · have hrange : (k ≤ j ∧ j < k + (m + 1)) ↔ (k + 1 ≤ j ∧ j < k + 1 + m) := by omega
    simp [hj, hrange]

theorem assignLines_from_zero (m : Nat) : assignLines voc increment 0 m
    = (List.range m).flatMap fun k =>
        [.op (.setaddr false (BitVec.ofNat 8 (k * increment)) voc.setaddrReg),
          .delay voc.times.tSetaddr] := by
  rw [List.range_eq_range']
  rfl

theorem assignedChips_from_zero (m : Nat) (chips : List Chip) :
    assignedChips voc increment 0 m chips = chips.mapIdx fun k chip =>
      if k < m then readdress voc (BitVec.ofNat 8 (k * increment)) chip else chip := by
  simp [assignedChips, assignedAddress]

/-- No turn was completed. -/
theorem loopResult_failed {n k : Nat} {c d : Controller} {e : ControllerError}
    {failed : List HostLine} (hchain : d.chain = c.chain) (hdone : d.done = c.done ++ failed)
    (hfailed : failed = [] ∨ failed = [setaddrLine voc increment k]) :
    LoopResult voc increment (n + 1) k c 0 failed (.error e, d) where
  turns := Nat.zero_le _
  chips := by rw [assignedChips_zero, hchain]
  done := hdone.trans (by simp [assignLines])
  ok := nofun
  error _ _ := ⟨Nat.succ_pos n, hfailed⟩

variable {voc increment}

/-- One completed turn before a loop's. -/
theorem LoopResult.succ {n k m : Nat} {c d : Controller} {failed : List HostLine}
    {r : Except ControllerError Unit × Controller}
    (hchips : d.chain.chips
      = c.chain.chips.modify k (readdress voc (assignedAddress increment k)))
    (hdone : d.done = c.done ++ [setaddrLine voc increment k, .delay voc.times.tSetaddr])
    (h : LoopResult voc increment n (k + 1) d m failed r) :
    LoopResult voc increment (n + 1) k c (m + 1) failed r where
  turns := Nat.succ_le_succ h.turns
  chips := by rw [h.chips, hchips, assignedChips_succ]
  done := by rw [h.done, hdone, assignLines_succ]; simp only [List.append_assoc]
  ok hr := by
    obtain ⟨hm, hfailed⟩ := h.ok hr
    exact ⟨congrArg Nat.succ hm, hfailed⟩
  error e hr := by
    obtain ⟨hm, hfailed⟩ := h.error e hr
    rw [Nat.add_right_comm k 1 m] at hfailed
    exact ⟨Nat.succ_lt_succ hm, hfailed⟩

variable (voc increment)

/-- R183: the loop, by induction on the number of chips, each turn a case of `assignOne_cases`. -/
theorem assignLoop_result (n k : Nat) (c : Controller) :
    ∃ m failed, LoopResult voc increment n k c m failed (assignLoop voc increment n k c) := by
  induction n generalizing k c with
  | zero =>
    exact ⟨0, [],
      { turns := Nat.le_refl 0
        chips := (assignedChips_zero voc increment k _).symm
        done := by simp [assignLoop, assignLines]
        ok := fun _ => ⟨rfl, rfl⟩
        error := nofun }⟩
  | succ n ih =>
    rcases assignOne_cases voc k (assignedAddress increment k) c with
      ⟨hok, hchain, hdone⟩ | ⟨⟨e, he⟩, hchain, hdone⟩
    · obtain ⟨m, failed, h⟩ := ih (k + 1) (assignOne voc k (assignedAddress increment k) c).2
      refine ⟨m + 1, failed, ?_⟩
      rw [assignLoop, ← assignedAddress, andThen_ok (Prod.ext hok rfl)]
      exact h.succ (by rw [hchain]) hdone
    · rw [assignLoop, ← assignedAddress, andThen_error (Prod.ext he rfl)]
      rcases hdone with hdone | hdone
      · exact ⟨0, _, loopResult_failed voc increment hchain hdone (.inr rfl)⟩
      · exact ⟨0, [], loopResult_failed voc increment hchain (by simp [hdone]) (.inl rfl)⟩

theorem assignAddresses_admitted {c : Controller} (hpos : increment ≠ 0)
    (hle : c.chain.chips.length * increment ≤ 255) :
    assignAddresses voc increment c = assignLoop voc increment c.chain.chips.length 0 c := by
  rw [assignAddresses, if_neg hpos, if_neg (Nat.not_lt.2 hle)]

theorem assignAddresses_refused {c : Controller}
    (h : increment = 0 ∨ 255 < c.chain.chips.length * increment) :
    assignAddresses voc increment c = (.error .configuration, c) := by
  rw [assignAddresses]
  split
  · rfl
  · next hpos => exact if_pos (h.resolve_left hpos)

end

/-- R183: an admitted address does not wrap. -/
theorem assignedAddress_toNat {increment n k : Nat} (hle : n * increment ≤ 255) (hk : k < n) :
    (assignedAddress increment k).toNat = k * increment := by
  have hlt : k * increment ≤ n * increment := Nat.mul_le_mul_right increment hk.le
  exact (BitVec.toNat_ofNat _ _).trans (Nat.mod_eq_of_lt (by omega))

theorem assignedAddress_inj {increment n a b : Nat} (hpos : increment ≠ 0)
    (hle : n * increment ≤ 255) (ha : a < n) (hb : b < n)
    (h : assignedAddress increment a = assignedAddress increment b) : a = b := by
  have hnat := congrArg BitVec.toNat h
  rw [assignedAddress_toNat hle ha, assignedAddress_toNat hle hb] at hnat
  exact Nat.eq_of_mul_eq_mul_right (Nat.pos_of_ne_zero hpos) hnat

/-- Settles O58: `assignLoop_result` for all the chips, from index 0. -/
theorem assignAddressesLines : Obligations.AssignAddressesLines := by
  intro voc increment c
  refine ⟨assignAddresses_refused voc increment, fun hpos hle => ⟨?_, fun a b ha hb h =>
    assignedAddress_inj hpos hle ha hb h⟩, chipAddress_readdress voc⟩
  obtain ⟨m, failed, h⟩ := assignLoop_result voc increment c.chain.chips.length 0 c
  rw [← assignAddresses_admitted voc increment hpos hle] at h
  refine ⟨m, failed, h.turns, ?_, ?_, h.ok, fun e he => ?_⟩
  · rw [h.chips, assignedChips_from_zero]
  · rw [h.done, assignLines_from_zero]
  · simpa [setaddrLine, assignedAddress] using h.error e he

/-! ### The frequency of a PLL (R188) -/

/-- R188: the product of the three dividers. -/
def pllDivider (p : Word) : Nat :=
  (p.extractLsb' 8 6).toNat * (p.extractLsb' 4 3).toNat * (p.extractLsb' 0 3).toNat

/-- R188: the quotient, its product in the given width. -/
def pllQuotient (width : Nat) (p : Word) (f : Nat) : Nat :=
  f * (p.extractLsb' 16 12).toNat % 2 ^ width / pllDivider p

section
variable (width : Nat) (overflow : Nat → Word) {p : Word} (f : Nat)

theorem pllFromRaw_inactive (h : p.getLsbD 31 = false ∨ p.getLsbD 30 = false) :
    pllFromRaw width overflow p f = .ok 0 := by
  have hbits : (!(p.getLsbD 31 && p.getLsbD 30)) = true := by
    rw [Bool.not_eq_true', Bool.and_eq_false_iff]
    exact h
  exact if_pos hbits

theorem pllFromRaw_active (h31 : p.getLsbD 31 = true) (h30 : p.getLsbD 30 = true) :
    pllFromRaw width overflow p f = if pllDivider p = 0 then .error .arithmetic
      else .ok (asUint32 overflow (pllQuotient width p f)) := by
  have hbits : ¬ (!(p.getLsbD 31 && p.getLsbD 30)) = true := by simp [h31, h30]
  exact if_neg hbits

end

theorem asUint32_toNat (overflow : Nat → Word) {q : Nat} (h : q < 2 ^ 32) :
    (asUint32 overflow q).toNat = q := by
  rw [asUint32, if_pos h, BitVec.toNat_ofNat, Nat.mod_eq_of_lt h]

/-- S4: the example's product is below `2 ^ 32`, so that no width of 32 bits or more cuts it. -/
theorem pllQuotient_example {width : Nat} (h : 32 ≤ width) :
    pllQuotient width 0xC0700111 25000000 = 2800000000 := by
  have hwidth : 2 ^ 32 ≤ 2 ^ width := Nat.pow_le_pow_right (by decide) h
  have hdiv : pllDivider 0xC0700111 = 1 := by decide
  have hproduct : 25000000 * ((0xC0700111 : Word).extractLsb' 16 12).toNat = 2800000000 := by decide
  rw [pllQuotient, hdiv, hproduct, Nat.mod_eq_of_lt (by omega)]

/-- Settles O59: bits 31 and 30 select the case, then the divider product does. -/
theorem pllFrequencyCases : Obligations.PllFrequencyCases := by
  intro width overflow p f
  refine ⟨pllFromRaw_inactive width overflow f, fun h31 h30 => ⟨fun hzero => ?_, fun hne =>
    ⟨asUint32 overflow (pllQuotient width p f), ?_, asUint32_toNat overflow⟩⟩, fun hwidth => ?_⟩
  · exact (pllFromRaw_active width overflow f h31 h30).trans (if_pos hzero)
  · exact (pllFromRaw_active width overflow f h31 h30).trans (if_neg hne)
  · rw [pllFromRaw_active width overflow _ (by decide) (by decide), if_neg (by decide),
      pllQuotient_example hwidth]
    rfl

/-! ### One turn of discovery (R181) -/

section
variable {voc : Vocabulary} (n : Nat) {c d : Controller}

/-- R181: a chip answered. -/
theorem discoverLoop_chip {v : Word} (h : receiveTriple c = (.ok (v, 0, voc.raChipAddress), d)) :
    discoverLoop voc (n + 1) c = discoverLoop voc n
      { d with chain := { d.chain with chips := d.chain.chips ++ [newChip voc v] } } := by
  simp only [discoverLoop, h, ne_eq, not_true_eq_false, or_self, if_false]
  exact andThen_ok (onChips_eq _ d)

/-- R181: a response that is no chip's answer. -/
theorem discoverLoop_mismatch {v : Word} {a g : Byte} (h : receiveTriple c = (.ok (v, a, g), d))
    (hbad : g ≠ voc.raChipAddress ∨ a ≠ 0) :
    discoverLoop voc (n + 1) c = (.error .protocolMismatch, d) := by
  simp only [discoverLoop, h, if_pos hbad]

/-- R181: no chip is left. -/
theorem discoverLoop_timeout (h : receiveTriple c = (.error (.block .ioTimeout), d)) :
    discoverLoop voc (n + 1) c = (.ok (), d) := by
  simp only [discoverLoop, h]

theorem discoverLoop_error {e : ControllerError} (h : receiveTriple c = (.error e, d))
    (he : e ≠ .block .ioTimeout) : discoverLoop voc (n + 1) c = (.error e, d) := by
  simp only [discoverLoop, h]

end

/-- Settles O60: each answer of the `RECV` has its lemma, and the `RECV` leaves the chain alone. -/
theorem discoveryTurn : Obligations.DiscoveryTurn := by
  intro voc n c d
  refine ⟨fun v g h hg => ?_, fun v a g h hbad => discoverLoop_mismatch n h hbad,
    discoverLoop_timeout n, fun e h he => discoverLoop_error n h he, receiveTriple_chain c⟩
  subst hg
  exact discoverLoop_chip n h

end Sys2Proof.Proofs
end

section
/-!
PROOFS. Hazards (R234, R246): a preamble on the wire that `CFG.PRE` does not expect, and a transport
call that never returns.
-/

namespace Sys2Proof.Proofs

open Machine

/-! ### A preamble that is not expected (R234) -/

/-- R52, R161: the upper half of a big-endian word is its first two bytes. -/
theorem be32At_upper (w : List Byte) (k : Nat) :
    (be32At w k).extractLsb' 16 16 = byteAt w k ++ byteAt w (k + 1) := by
  have hlow {n : Nat} (x : BitVec n) (c d : Byte) : (x ++ c ++ d).extractLsb' 16 n = x := by
    rw [BitVec.extractLsb'_append_eq_of_le (by omega),
      BitVec.extractLsb'_append_eq_of_le (by omega), BitVec.extractLsb'_eq_self]
  exact hlow (byteAt w k ++ byteAt w (k + 1)) _ _

/-- R162 to R164: a `RECV` that is given a body of 7 bytes behind the preamble it expects is decided
by the checksum; the stream keeps what stands behind. -/
theorem receive_by_checksum {s : State} {body rest : List Byte} {count : Nat}
    (hlen : body.length = 7)
    (hin : s.bus.inbound ++ s.bus.nextRead.arriving = wireIn s.cfgPre body ++ rest)
    (hres : s.bus.nextRead.result = .data count) (hle : respLen s.cfgPre ≤ count) :
    ∃ x, ((crc5 body ≠ 0 ∧ receive s = raise .checksumError x) ∨
      (crc5 body = 0 ∧ receive s =
        finish (.response (be32At body 0) (byteAt body 4) (byteAt body 5))
          (latchRes (be32At body 0) (byteAt body 4) (byteAt body 5) x))) ∧
      x.bus.inbound = rest := by
  have he : receive s = checkBody (respLen s.cfgPre) body (storeRx (wireIn s.cfgPre body)
      (setBus { s.bus.popRead with inbound := rest } (setIdx 0 (clearValid s)))) := by
    rw [receive_eq, busRead_response hlen hin hres hle]
    exact checkResponse_wireIn (s := storeRx _ (setBus _ (setIdx 0 (clearValid s)))) hlen
  rw [he]
  exact ⟨_, checkBody_cases _ _ _, rfl⟩

/-- Settles O33: without the preamble setting the body that is checked is `AA 55` and five bytes of
the chip's body, whose last two stay behind. -/
theorem preambleMismatchLeavesTwoBytes : Obligations.PreambleMismatchLeavesTwoBytes := by
  intro s t body rest count hpre hlen hin hread hle h
  obtain rfl : t = receive s := exec_next h
  have hpreamble : (0xAA : Byte) ++ (0x55 : Byte) = (0xAA55 : BitVec 16) := by decide
  have hstream : s.bus.inbound ++ s.bus.nextRead.arriving
      = wireIn s.cfgPre (0xAA :: 0x55 :: body.take 5) ++ (body.drop 5 ++ rest) := by
    simp [hin, hread, hpre, wireIn, ← List.append_assoc]
  obtain ⟨x, ⟨-, he⟩ | ⟨-, he⟩, hrest⟩ :=
    receive_by_checksum (by simp [hlen]) hstream (by rw [hread]) (by rwa [hpre]) <;> rw [he]
  · exact ⟨hrest, nofun, .inr rfl⟩
  · exact ⟨hrest, fun _ => (be32At_upper _ 0).trans hpreamble, .inl rfl⟩

/-! ### A transport call that never returns (R246) -/

/-- R131, R246: a send that has not ended leaves `STATUS`. -/
theorem endSend_busy_status (n : Nat) (a : WriteAnswer) (s : State)
    (hbusy : (endSend n a s).mode ≠ .idle) : (endSend n a s).status = s.status := by
  rcases endSend_cases n a s with ⟨_, _, _, he⟩ | ⟨_, _, _, he⟩ | ⟨_, _, _, he⟩ | ⟨_, _, he⟩ <;>
    rw [he] at hbusy ⊢
  · exact absurd rfl hbusy
  · exact absurd rfl hbusy
  · exact absurd rfl hbusy
  · rfl

/-- R37, R207: `STATUS` is written when an operation ends; what leaves the block busy keeps it. -/
theorem effect_busy_status {s t : State} (h : Effect s t) (hbusy : t.mode ≠ .idle) :
    t.status = s.status := by
  cases h with
  | arrival w => rfl
  | refusal why => exact absurd rfl hbusy
  | send => exact endSend_busy_status _ _ _ hbusy
  | receive =>
    rcases receive_cases s with ⟨_, _, he⟩ | ⟨_, he⟩ | ⟨w, _, he⟩ <;> rw [he] at hbusy ⊢
    · exact absurd rfl hbusy
    · rfl
    · exact absurd (checkResponse_idle w _) hbusy
  | ends => exact absurd rfl hbusy

/-- R33, R213: a block that is not idle is hung. -/
theorem kind_of_busy {s : State} (h : s.mode ≠ .idle) : s.kind = some .hang := if_pos h

/-- R57: the cut at the frame's length leaves a call that never returns such a call. -/
theorem busWrite_never {frame : List Byte} {b : Bus} {sent : Nat} (h : b.nextWrite = .never sent) :
    (busWrite frame b).1 = .never (min sent frame.length) := by
  simp [busWrite, h, cutAnswer]

/-- R246: the write of an admitted wire command that never returns. -/
theorem updateOf_hung_write {i : Instr} {s : State} {sent : Nat} (hwire : i.isWire = true)
    (hwf : i.wf = true) (h : s.bus.nextWrite = .never sent) :
    (updateOf i s).mode = .tx ∧ (updateOf i s).res.valid = false := by
  obtain ⟨x, he, -, hvalid⟩ := updateOf_ends_write hwire hwf s
  rw [he, busWrite_never h]
  exact ⟨rfl, hvalid⟩

/-- R246: the read of a `RECV` that never returns. -/
theorem receive_hung_read {s : State} {taken : Nat} (h : s.bus.nextRead.result = .never taken) :
    (receive s).mode = .rx ∧ (receive s).res.valid = false := by
  rw [receive_eq, (busRead_never_iff _ _).2 ⟨taken, h⟩]
  exact ⟨rfl, rfl⟩

/-- R33, R246: an operation that leaves the block busy keeps `STATUS`, and no other is accepted
after it. -/
theorem hung_blocks {i j : Instr} {s : State} {m : Mode} (hi : ∀ v c g f k, i ≠ .resp v c g f k)
    (hj : ∀ v c g f k, j ≠ .resp v c g f k) (hidle : s.mode = .idle) (hm : m ≠ .idle)
    (h : (updateOf i s).mode = m ∧ (updateOf i s).res.valid = false) :
    ∃ t, exec i s = .next t ∧ t.mode = m ∧ t.kind = some .hang ∧ t.status = s.status ∧
      t.res.valid = false ∧ exec j t = .refused .operationInProgress := by
  obtain ⟨hmode, hvalid⟩ := h
  have hbusy : (updateOf i s).mode ≠ .idle := hmode ▸ hm
  exact ⟨updateOf i s, (exec_operation hi s).trans (whenIdle_idle _ hidle), hmode,
    kind_of_busy hbusy, effect_busy_status (updateOf_effect i s) hbusy, hvalid,
    (exec_operation hj _).trans (whenIdle_busy _ hbusy)⟩

/-- Settles O40: either call leaves the block busy, and `hung_blocks` says what follows. -/
theorem hungCallBlocksTheBlock : Obligations.HungCallBlocksTheBlock :=
  ⟨fun _ _ _ _ hwire hwf hidle hnever hj =>
      hung_blocks (fun _ _ _ _ _ hi => nomatch hi ▸ hwire) hj hidle nofun
        (updateOf_hung_write hwire hwf hnever),
    fun _ _ _ hidle hnever hj =>
      hung_blocks (i := .recv) nofun hj hidle nofun (receive_hung_read hnever)⟩

end Sys2Proof.Proofs
end
